-- ==== Sys2Proof/Word.lean ====
section
/-! DEFINITION. Word.lean: the widths of the fields the spec gives bits, and the index types of its fixed tables. -/

namespace Sys2Proof

/-- One byte of a record, a table or a line. -/
abbrev Byte := BitVec 8

/-- A 16-bit field: ring indices, CMD_ID, generation, WIDTH. -/
abbrev Short := BitVec 16

/-- A 32-bit word: a register of the window, a TAG, a counter. -/
abbrev Word := BitVec 32

/-- A 64-bit byte address in host memory (00_scope.md, Conventions). -/
abbrev Addr := BitVec 64

/-- A level, 0 to 15 (00_scope.md, Terms). -/
abbrev Level := BitVec 4

/-- A line group, G0 to G3. -/
abbrev GroupId := Fin 4

/-- A job context, context 0 to context 15. -/
abbrev CtxId := Fin 16

/-- A line slot, S0 to S31. -/
abbrev SlotId := Fin 32

/-- An entry of the fetch tracker, 0 to 3. -/
abbrev EntryId := Fin 4

/-- A drive profile, P0 to P7. -/
abbrev ProfileId := Fin 8

/-- A lane, LANE0 to LANE63. -/
abbrev LaneId := Fin 64

end Sys2Proof
end

