-- ==== Sys2Proof/Config.lean ====
section
/-! DEFINITION. Config.lean: what is fixed for every UZ4180: capacities, valid ring sizes, limits of fields, the constant of
IDENT. The spec leaves no value open that an operation would need, so there is no opaque constant here. -/

namespace Sys2Proof.Config

/-- Longest job list of a group (R5). -/
def listCapacity : Nat := 4

/-- Most extents in a job's extent list (R89). -/
def extentCapacity : Nat := 16

/-- Entries of the holding list, the reservation included (R152). -/
def holdingCapacity : Nat := 8

/-- Most drain waiters of a group (R67). -/
def waiterCapacity : Nat := 4

/-- Largest number of lines ever supplied to a job (R4). -/
def maxSupplied : Nat := 4294967295

/-- Largest measurement of the interval monitor (R60). -/
def maxInterval : Nat := 16777215

/-- Largest DELAY of a profile entry (R74). -/
def maxEntryDelay : Nat := 4095

/-- Largest arbitration count (R112). -/
def maxPriorityRun : Nat := 4

/-- Length of a device reset in microseconds (R169). -/
def deviceResetMicros : Nat := 10

/-- SIZE values of a submission ring (R107). -/
def validSubmissionSize (size : Short) : Bool :=
  [0, 16, 32, 64, 128, 256, 512, 1024].contains size.toNat

/-- SIZE values of the completion ring (R147). -/
def validCompletionSize (size : Short) : Bool :=
  [16, 32, 64, 128, 256, 512, 1024, 2048, 4096].contains size.toNat

/-- IDENT (10.5, R161): part code 80h, revision 1, and the base-two exponents of the seven capacities. -/
def identWord : Word :=
  (3 : BitVec 3) ++ (2 : BitVec 3) ++ (3 : BitVec 3) ++ (4 : BitVec 3) ++ (5 : BitVec 3) ++ (2 : BitVec 3)
    ++ (6 : BitVec 3) ++ (1 : BitVec 3) ++ (0x80 : BitVec 8)

end Sys2Proof.Config
end

