-- ==== Sys2Proof/Syntax.lean ====
section
/-! DEFINITION. Syntax.lean: the commands of the part, one constructor of `Instr` per row of spec/opcode_table.json, with the
operands the rules give the row. -/

namespace Sys2Proof

/-- The two submission rings (R107). -/
inductive SubRing where
  | priority
  | normal
  deriving DecidableEq, Repr

/-- The two words of a 64-bit BASE register (R160). -/
inductive WordHalf where
  | low
  | high
  deriving DecidableEq, Repr

/-- Polarity of an edge on an LTRIG input (R56), and the EDGE field (10.1). -/
inductive Edge where
  | rising
  | falling
  deriving DecidableEq, Repr

/-- A set of fault kinds (R165); in a write of FAULT, the kinds whose bit is written as 1 (R166). -/
structure FaultKinds where
  ringRead : Bool
  ringIndex : Bool
  config : Bool
  compIndex : Bool
  deriving DecidableEq, Repr

/-- Registers, or parts of a word, without behaviour of their own on a write (R160, R108, R147). -/
inductive PlainRegister where
  | ident
  | status
  | completionProducer
  | submissionConsumer (ring : SubRing)
  | unusedBits
  deriving DecidableEq, Repr

/-- The parameters of a CONFIG_GROUP record, each in the width of its field (10.1). -/
structure GroupFields where
  firstLane : Byte
  laneCount : Byte
  source : Byte
  edge : Byte
  leader : Byte
  period : Word
  delay : Word
  minInterval : Word
  deriving DecidableEq, Repr

/-- The parameters of a START_JOB record, each in the width of its field (10.1); `isOpen` is FLAGS bit 0. -/
structure StartFields where
  isOpen : Bool
  group : Byte
  profile : Byte
  policy : Byte
  depth : Byte
  armLevel : Byte
  extentCount : Byte
  markEvery : Short
  listAddress : Addr
  deriving DecidableEq, Repr

/-- The commands. A record's command (`nop` to `reportGroup`) is the event in which the read of that record answers with data;
its operands are the fields of the record the command uses (10.1, R170). A command named after an answer, an expiry or an end is
that event. -/
inductive Instr where
  /-- DEVICE_RESET (R169). -/
  | deviceReset
  /-- DEVICE_RESET_COMPLETE (R169). -/
  | deviceResetComplete
  /-- RUN (R118): the RUN field of a write of CONTROL. -/
  | run (value : Bool)
  /-- ENGINE_RESET (R167): the ENGINE_RESET field of a write of CONTROL. -/
  | engineReset (value : Bool)
  /-- FETCH_LIMIT (R162): the FETCH_LIMIT field of a write of CONTROL. -/
  | fetchLimit (value : Byte)
  /-- TICK_DIVIDER (R163): the TICK_DIVIDER field of a write of CONTROL, 5 bits (10.5). -/
  | tickDivider (value : BitVec 5)
  /-- FAULT_CLEAR (R166): bits 12 to 15 of a write of the word at 08h. -/
  | faultClear (kinds : FaultKinds)
  /-- SUBMISSION_BASE (R108): a write of one word of a BASE register. -/
  | submissionBase (ring : SubRing) (half : WordHalf) (value : Word)
  /-- SUBMISSION_SIZE (R108). -/
  | submissionSize (ring : SubRing) (value : Short)
  /-- PRODUCER (R108): a write of a submission ring's PRODUCER. -/
  | producer (ring : SubRing) (value : Short)
  /-- COMPLETION_BASE (R147): a write of one word of the completion BASE. -/
  | completionBase (half : WordHalf) (value : Word)
  /-- COMPLETION_SIZE (R147). -/
  | completionSize (value : Short)
  /-- CONSUMER (R150): a write of the completion ring's CONSUMER. -/
  | consumer (value : Short)
  /-- INT_MOD (R157). -/
  | intMod (threshold : Byte) (age : Short)
  /-- REGISTER_WRITE (R160): a write to a register without behaviour of its own. -/
  | registerWrite (register : PlainRegister) (value : Word)
  /-- TRIGGER (R56): an edge on the group's LTRIG input, with the tick in which it is seen. -/
  | trigger (group : GroupId) (edge : Edge) (tick : Nat)
  /-- PERIOD_END (R55). -/
  | periodEnd (group : GroupId)
  /-- COUNTDOWN_EXPIRY (R57, R58). -/
  | countdownExpiry (group : GroupId)
  /-- PULSE_START (R79). -/
  | pulseStart (lane : LaneId)
  /-- PULSE_END (R79, R81). -/
  | pulseEnd (lane : LaneId)
  /-- SLOT_GRANT (R43): the grant rule is considered. -/
  | slotGrant
  /-- FETCH_ISSUE (R96, R97): an issue decision. -/
  | fetchIssue
  /-- FETCH_DATA_ANSWER (R98): the bytes of the line come for the read of this tracker entry. -/
  | fetchDataAnswer (entry : EntryId) (data : List Byte)
  /-- FETCH_ERROR_ANSWER (R99). -/
  | fetchErrorAnswer (entry : EntryId)
  /-- FETCH_EXPIRY (R99). -/
  | fetchExpiry (entry : EntryId)
  /-- LATE_ANSWER (R100): an answer for a line read that has expired. -/
  | lateAnswer
  /-- RESERVATION (R110, R152). -/
  | reservation
  /-- TAKE_DECISION (R111). -/
  | takeDecision
  /-- RECORD_READ_ERROR (R113). -/
  | recordReadError
  /-- RECORD_READ_EXPIRY (R113, R120). -/
  | recordReadExpiry
  /-- NOP (R125). -/
  | nop (cmdId : Short)
  /-- UNKNOWN_OPCODE (R114): a record whose OPCODE names no command. -/
  | unknownOpcode (opcode : Byte) (cmdId : Short)
  /-- CONFIG_GROUP (R126 to R129). -/
  | configGroup (cmdId : Short) (target : Word) (fields : GroupFields)
  /-- CONFIG_LANES (R130). -/
  | configLanes (cmdId : Short) (firstLane : Byte) (count : Byte) (address : Addr)
  /-- LOAD_PROFILE (R132). -/
  | loadProfile (cmdId : Short) (profile : Byte) (address : Addr)
  /-- START_JOB (R133, R134). -/
  | startJob (cmdId : Short) (tag : Word) (fields : StartFields)
  /-- APPEND_LINES (R137). -/
  | appendLines (cmdId : Short) (tag : Word) (extentCount : Byte) (listAddress : Addr)
  /-- CLOSE_JOB (R139). -/
  | closeJob (cmdId : Short) (tag : Word)
  /-- ABORT_JOB (R141). -/
  | abortJob (cmdId : Short) (tag : Word)
  /-- HOLD_GROUP (R143). -/
  | holdGroup (cmdId : Short) (target : Word)
  /-- RELEASE_GROUP (R144). -/
  | releaseGroup (cmdId : Short) (target : Word)
  /-- DRAIN_GROUP (R145). -/
  | drainGroup (cmdId : Short) (target : Word)
  /-- REPORT_GROUP (R146); `clear` is FLAGS bit 0. -/
  | reportGroup (cmdId : Short) (target : Word) (clear : Bool) (address : Addr)
  /-- AUXILIARY_READ_DATA (R115): the bytes of the table come. -/
  | auxiliaryReadData (data : List Byte)
  /-- AUXILIARY_READ_ERROR (R115). -/
  | auxiliaryReadError
  /-- AUXILIARY_READ_EXPIRY (R115, R120). -/
  | auxiliaryReadExpiry
  /-- VOID_READ_ANSWER (R120): an answer for a read of the Command Processor that has expired or is void. -/
  | voidReadAnswer
  /-- JOB_END_PLACEMENT (R21). -/
  | jobEndPlacement
  /-- DRAIN_RESPONSE (R68). -/
  | drainResponse
  /-- COMPLETION_WRITE (R148). -/
  | completionWrite
  /-- AGE_EXPIRY (R158). -/
  | ageExpiry
  deriving DecidableEq, Repr

end Sys2Proof
end

