-- ==== Sys2Proof/WellFormed.lean ====
section
/-! DEFINITION. WellFormed.lean: which terms of `Instr` are commands. Most operands are in range by their type; the checks here
are the ones a type does not make. -/

namespace Sys2Proof

/-- An OPCODE that names one of the twelve opcodes of 10.1. -/
def definedOpcode (opcode : Byte) : Bool := decide (opcode.toNat ≤ 0x0B)

/-- A length a line read can have: a line size, 1 to 32 bytes (R92). -/
def lineLength (n : Nat) : Bool := decide (1 ≤ n ∧ n ≤ 32)

/-- A length a table read can have: 4 to 256 bytes, whole 4-byte records (10.2). -/
def tableLength (n : Nat) : Bool := decide (4 ≤ n ∧ n ≤ 256 ∧ n % 4 = 0)

/-- A well-formed command. -/
def wellFormed : Instr → Bool
  | .unknownOpcode opcode _ => !definedOpcode opcode
  | .fetchDataAnswer _ data => lineLength data.length
  | .auxiliaryReadData data => tableLength data.length
  | .deviceReset | .deviceResetComplete | .run _ | .engineReset _ | .fetchLimit _ | .tickDivider _ | .faultClear _ => true
  | .submissionBase _ _ _ | .submissionSize _ _ | .producer _ _ | .completionBase _ _ | .completionSize _ => true
  | .consumer _ | .intMod _ _ | .registerWrite _ _ | .trigger _ _ _ | .periodEnd _ | .countdownExpiry _ => true
  | .pulseStart _ | .pulseEnd _ | .slotGrant | .fetchIssue | .fetchErrorAnswer _ | .fetchExpiry _ | .lateAnswer => true
  | .reservation | .takeDecision | .recordReadError | .recordReadExpiry | .nop _ | .configGroup _ _ _ => true
  | .configLanes _ _ _ _ | .loadProfile _ _ _ | .startJob _ _ _ | .appendLines _ _ _ _ | .closeJob _ _ => true
  | .abortJob _ _ | .holdGroup _ _ | .releaseGroup _ _ | .drainGroup _ _ | .reportGroup _ _ _ _ => true
  | .auxiliaryReadError | .auxiliaryReadExpiry | .voidReadAnswer | .jobEndPlacement | .drainResponse => true
  | .completionWrite | .ageExpiry => true

end Sys2Proof
end

