-- ==== Sys2Proof/Decode.lean ====
section
/-! DEFINITION. Decode.lean: from bits to commands. The opcode table gives no row any bits, so `decodeTableWord` reads none. What
the spec does give an encoding is decoded here: the 64-byte command record (10.1, R170) with its encoder, and a host write of a
word of the register window (10.5, R160), which spells the commands of the word's fields. -/

namespace Sys2Proof

/-- The command a word of the opcode table spells: the table gives no row bits, so a word spells none. -/
def decodeTableWord (_nbits _w : Nat) : Option Instr := none

/-! ## Little-endian fields (00_scope.md, Conventions) -/

/-- The byte at an offset of a record or table (0 where there is none). -/
def byteAt (bytes : List Byte) (i : Nat) : Byte := bytes.getD i 0

/-- The 16-bit field at an offset, least significant byte first. -/
def shortAt (bytes : List Byte) (i : Nat) : Short := byteAt bytes (i + 1) ++ byteAt bytes i

/-- The 32-bit field at an offset, least significant byte first. -/
def wordAt (bytes : List Byte) (i : Nat) : Word := shortAt bytes (i + 2) ++ shortAt bytes i

/-- The 64-bit field at an offset, least significant byte first. -/
def addrAt (bytes : List Byte) (i : Nat) : Addr := wordAt bytes (i + 4) ++ wordAt bytes i

/-- The two bytes of a 16-bit field, least significant first. -/
def shortBytes (v : Short) : List Byte := [v.extractLsb' 0 8, v.extractLsb' 8 8]

/-- The four bytes of a 32-bit field, least significant first. -/
def wordBytes (v : Word) : List Byte := shortBytes (v.extractLsb' 0 16) ++ shortBytes (v.extractLsb' 16 16)

/-- The eight bytes of a 64-bit field, least significant first. -/
def addrBytes (v : Addr) : List Byte := wordBytes (v.extractLsb' 0 32) ++ wordBytes (v.extractLsb' 32 32)

/-- Bit 0 of a byte: OPEN, CLEAR, NOTIFY. -/
def bitZero (b : Byte) : Bool := b.getLsbD 0

/-- A flag as bit 0 of a byte. -/
def flagByte (b : Bool) : Byte := if b then 1 else 0

/-! ## The command record (10.1, R170) -/

/-- CONFIG_GROUP's parameters: bytes 8 to 12 and 16 to 27. -/
def groupFieldsOf (r : List Byte) : GroupFields :=
  { firstLane := byteAt r 8, laneCount := byteAt r 9, source := byteAt r 10, edge := byteAt r 11, leader := byteAt r 12,
    period := wordAt r 16, delay := wordAt r 20, minInterval := wordAt r 24 }

/-- START_JOB's parameters: FLAGS bit 0, bytes 8 to 15 and 16 to 23. -/
def startFieldsOf (r : List Byte) : StartFields :=
  { isOpen := bitZero (byteAt r 1), group := byteAt r 8, profile := byteAt r 9, policy := byteAt r 10, depth := byteAt r 11,
    armLevel := byteAt r 12, extentCount := byteAt r 13, markEvery := shortAt r 14, listAddress := addrAt r 16 }

/-- The command of a record's bytes, by OPCODE (10.1). Bytes and bits a command does not use are not read (R170). -/
def recordCommand (r : List Byte) : Instr :=
  let cmdId := shortAt r 2
  let target := wordAt r 4
  match (byteAt r 0).toNat with
  | 0x00 => .nop cmdId
  | 0x01 => .configGroup cmdId target (groupFieldsOf r)
  | 0x02 => .configLanes cmdId (byteAt r 8) (byteAt r 9) (addrAt r 16)
  | 0x03 => .loadProfile cmdId (byteAt r 8) (addrAt r 16)
  | 0x04 => .startJob cmdId target (startFieldsOf r)
  | 0x05 => .appendLines cmdId target (byteAt r 13) (addrAt r 16)
  | 0x06 => .closeJob cmdId target
  | 0x07 => .abortJob cmdId target
  | 0x08 => .holdGroup cmdId target
  | 0x09 => .releaseGroup cmdId target
  | 0x0A => .drainGroup cmdId target
  | 0x0B => .reportGroup cmdId target (bitZero (byteAt r 1)) (addrAt r 16)
  | _ => .unknownOpcode (byteAt r 0) cmdId

/-- The command a 64-byte record stands for; no other length is a record. -/
def decodeRecord (r : List Byte) : Option Instr := if r.length = 64 then some (recordCommand r) else none

/-- A header (bytes 0 to 7) followed by parameter bytes from byte 8 on, filled with zeros to 64 bytes. -/
def recordBytes (opcode flags : Byte) (cmdId : Short) (target : Word) (params : List Byte) : List Byte :=
  [opcode, flags] ++ shortBytes cmdId ++ wordBytes target ++ params ++ List.replicate (56 - params.length) 0

/-- Parameter bytes of a CONFIG_GROUP. -/
def groupFieldBytes (f : GroupFields) : List Byte :=
  [f.firstLane, f.laneCount, f.source, f.edge, f.leader, 0, 0, 0] ++ wordBytes f.period ++ wordBytes f.delay
    ++ wordBytes f.minInterval

/-- Parameter bytes of a START_JOB. -/
def startFieldBytes (f : StartFields) : List Byte :=
  [f.group, f.profile, f.policy, f.depth, f.armLevel, f.extentCount] ++ shortBytes f.markEvery ++ addrBytes f.listAddress

/-- The record of a record's command, every ignored byte and bit 0; no record for a command of another kind. -/
def encodeRecord : Instr → Option (List Byte)
  | .nop cmdId => some (recordBytes 0x00 0 cmdId 0 [])
  | .unknownOpcode opcode cmdId => some (recordBytes opcode 0 cmdId 0 [])
  | .configGroup cmdId target f => some (recordBytes 0x01 0 cmdId target (groupFieldBytes f))
  | .configLanes cmdId firstLane count address =>
    some (recordBytes 0x02 0 cmdId 0 ([firstLane, count, 0, 0, 0, 0, 0, 0] ++ addrBytes address))
  | .loadProfile cmdId profile address =>
    some (recordBytes 0x03 0 cmdId 0 ([profile, 0, 0, 0, 0, 0, 0, 0] ++ addrBytes address))
  | .startJob cmdId tag f => some (recordBytes 0x04 (flagByte f.isOpen) cmdId tag (startFieldBytes f))
  | .appendLines cmdId tag extentCount listAddress =>
    some (recordBytes 0x05 0 cmdId tag ([0, 0, 0, 0, 0, extentCount, 0, 0] ++ addrBytes listAddress))
  | .closeJob cmdId tag => some (recordBytes 0x06 0 cmdId tag [])
  | .abortJob cmdId tag => some (recordBytes 0x07 0 cmdId tag [])
  | .holdGroup cmdId target => some (recordBytes 0x08 0 cmdId target [])
  | .releaseGroup cmdId target => some (recordBytes 0x09 0 cmdId target [])
  | .drainGroup cmdId target => some (recordBytes 0x0A 0 cmdId target [])
  | .reportGroup cmdId target clear address =>
    some (recordBytes 0x0B (flagByte clear) cmdId target ([0, 0, 0, 0, 0, 0, 0, 0] ++ addrBytes address))
  | .deviceReset | .deviceResetComplete | .run _ | .engineReset _ | .fetchLimit _ | .tickDivider _ | .faultClear _ => none
  | .submissionBase _ _ _ | .submissionSize _ _ | .producer _ _ | .completionBase _ _ | .completionSize _ => none
  | .consumer _ | .intMod _ _ | .registerWrite _ _ | .trigger _ _ _ | .periodEnd _ | .countdownExpiry _ => none
  | .pulseStart _ | .pulseEnd _ | .slotGrant | .fetchIssue | .fetchDataAnswer _ _ | .fetchErrorAnswer _ | .fetchExpiry _ => none
  | .lateAnswer | .reservation | .takeDecision | .recordReadError | .recordReadExpiry | .auxiliaryReadData _ => none
  | .auxiliaryReadError | .auxiliaryReadExpiry | .voidReadAnswer | .jobEndPlacement | .drainResponse => none
  | .completionWrite | .ageExpiry => none

/-! ## Writes of the register window (10.5, R160) -/

/-- A write of CONTROL (R162): FETCH_LIMIT and TICK_DIVIDER are stored, then ENGINE_RESET 1 acts alone, or RUN acts. A write that
carries ENGINE_RESET 1 leaves RUN aside whether RESETTING is set or not. -/
def controlWrite (w : Word) : List Instr :=
  [.fetchLimit (w.extractLsb' 8 8), .tickDivider (w.extractLsb' 16 5),
    if w.getLsbD 1 then .engineReset true else .run (w.getLsbD 0)]

/-- A write of the word STATUS and FAULT share: bits 12 to 15 alone act (R166). -/
def faultWrite (w : Word) : List Instr :=
  [.registerWrite .status w,
    .faultClear { ringRead := w.getLsbD 12, ringIndex := w.getLsbD 13, config := w.getLsbD 14, compIndex := w.getLsbD 15 }]

/-- A write of one of the four words of a submission ring, by its place in the block of four. A write of the word that packs
SIZE and CONSUMER is a write of SIZE alone (R160). -/
def submissionWrite (ring : SubRing) (place : Nat) (w : Word) : List Instr :=
  match place with
  | 0 => [.submissionBase ring .low w]
  | 1 => [.submissionBase ring .high w]
  | 2 => [.submissionSize ring (w.extractLsb' 0 16), .registerWrite (.submissionConsumer ring) w]
  | 3 => [.producer ring (w.extractLsb' 0 16)]
  | _ => []

/-- The commands a host write of the window's word at a byte offset spells, in the order they act; none for an offset outside
the window. -/
def windowWrite (offset : Nat) (w : Word) : List Instr :=
  match offset with
  | 0x00 => [.registerWrite .ident w]
  | 0x04 => controlWrite w
  | 0x08 => faultWrite w
  | 0x0C => [.intMod (w.extractLsb' 0 8) (w.extractLsb' 16 16)]
  | 0x10 => submissionWrite .priority 0 w
  | 0x14 => submissionWrite .priority 1 w
  | 0x18 => submissionWrite .priority 2 w
  | 0x1C => submissionWrite .priority 3 w
  | 0x20 => submissionWrite .normal 0 w
  | 0x24 => submissionWrite .normal 1 w
  | 0x28 => submissionWrite .normal 2 w
  | 0x2C => submissionWrite .normal 3 w
  | 0x30 => [.completionBase .low w]
  | 0x34 => [.completionBase .high w]
  | 0x38 => [.completionSize (w.extractLsb' 0 16), .registerWrite .completionProducer w]
  | 0x3C => [.consumer (w.extractLsb' 0 16)]
  | _ => []

end Sys2Proof
end

