-- ==== Sys2Proof/Machine/State.lean ====
section
/-! DEFINITION. Machine/State.lean: every piece of state the spec gives the part, as plain data, with the values right after a
device reset has completed; the reasons a step can stop. -/

namespace Sys2Proof.Machine

/-! ## Device Control (09_device_control.md) -/

/-- RING of FAULT (R165), coded 0 to 3 in this order (10.5). -/
inductive FaultRing where
  | none
  | priority
  | normal
  | completion
  deriving DecidableEq, Repr

/-- FAULT: kind set, RING, INDEX (R165). -/
structure FaultReg where
  kinds : FaultKinds
  ring : FaultRing
  index : Short
  deriving DecidableEq, Repr

/-- Time: REFCLK in MHz, REFCLK periods gone by, the number of the present tick, and the REFCLK periods of it already gone
(R47; assumptions 1, 2, 18). -/
structure Clock where
  mhz : Nat
  now : Nat
  tick : Nat
  phase : Nat
  deriving DecidableEq, Repr

/-! ## Job Table (01_jobs.md) -/

/-- POLICY (R1), coded 0 to 2 in this order (10.1). -/
inductive Policy where
  | skip
  | hold
  | stop
  deriving DecidableEq, Repr

/-- End status (R1, R151); FAULT_LINE stands with FETCH_FAULT alone. -/
inductive EndStatus where
  | ended
  | aborted
  | underrun
  | fetchFault (faultLine : Nat)
  deriving DecidableEq, Repr

/-- Job state (1.3). -/
inductive JobState where
  | pending
  | waiting
  | primed
  | armed
  | running
  | finishing
  | ended (status : EndStatus)
  deriving DecidableEq, Repr

/-- An extent of a job's list, with the Fetch Unit's own two parts (R89). -/
structure Extent where
  base : Addr
  lines : Short
  stride : Short
  notify : Bool
  firstLine : Nat
  settled : Nat
  deriving DecidableEq, Repr

/-- A live context (R1). The slot ring is held by the slots (R24); `cursor` is the fetch cursor's job line number (R91, assumption
10); extents, retired count and cursor have no meaning once the job is ENDED (R105). -/
structure Job where
  tag : Word
  group : GroupId
  profile : ProfileId
  policy : Policy
  depth : Nat
  armLevel : Nat
  markEvery : Short
  isOpen : Bool
  extents : List Extent
  retired : Nat
  supplied : Nat
  cursor : Nat
  firePos : Nat
  linesFired : Word
  linesSkipped : Word
  heldEvents : Word
  clipped : Word
  noticesLost : Word
  state : JobState
  deriving DecidableEq, Repr

/-! ## Line Store (02_the_line_store.md) -/

/-- Slot state with the parts present in it (R24). -/
inductive SlotState where
  | free
  | empty (owner : CtxId) (index : Nat)
  | filling (owner : CtxId) (index : Nat) (line : Nat)
  | ready (owner : CtxId) (index : Nat) (line : Nat)
  | firing (owner : CtxId) (index : Nat) (line : Nat)
  | stale (owner : CtxId) (index : Nat) (line : Nat)
  | discard
  deriving DecidableEq, Repr

/-- A line slot (R24): level k of the line stands at index k. -/
structure Slot where
  state : SlotState
  levels : Vector Level 64
  deriving DecidableEq, Repr

/-! ## Fetch Unit (05_line_fetch.md) -/

/-- A busy tracker entry (R93); `expiry` is a moment of `Clock.now`. -/
structure LineRead where
  slot : SlotId
  line : Nat
  expiry : Nat
  isVoid : Bool
  deriving DecidableEq, Repr

/-! ## Profile Store and Lane Driver (04_lanes_profiles_and_pulse_formation.md) -/

/-- One entry of a profile (R74). -/
structure ProfileEntry where
  delay : Short
  width : Short
  deriving DecidableEq, Repr

/-- A drive profile (R74). -/
structure Profile where
  entries : Vector ProfileEntry 16
  generation : Short
  deriving DecidableEq, Repr

/-- A group's latched profile (R76). -/
structure Latched where
  number : ProfileId
  generation : Short
  entries : Vector ProfileEntry 16
  deriving DecidableEq, Repr

/-- POLARITY of a lane (R71), coded 0 and 1 in this order (10.2). -/
inductive Polarity where
  | activeHigh
  | activeLow
  deriving DecidableEq, Repr

/-- A lane record (R71). -/
structure LaneRecord where
  enable : Bool
  polarity : Polarity
  trim : BitVec 8
  deriving DecidableEq, Repr

/-- A pulse record (R79): a pulse in progress has a start tick, an end tick, the group and the context that formed it. -/
inductive Pulse where
  | none
  | scheduled (startTick endTick : Nat) (group : GroupId) (job : CtxId)
  | active (startTick endTick : Nat) (group : GroupId) (job : CtxId)
  deriving DecidableEq, Repr

/-! ## Line Groups (03_line_groups_and_line_events.md) -/

/-- Line clock state (R54): a COUNTING clock has the tick its period began at, a DELAYING one the tick its countdown expires at. -/
inductive LineClock where
  | stopped
  | counting (start : Nat)
  | waitEdge
  | waitLeader
  | delaying (due : Nat)
  deriving DecidableEq, Repr

/-- Hold state (3.6), coded 0 to 2 in this order (10.4). -/
inductive HoldState where
  | none
  | pending
  | held
  deriving DecidableEq, Repr

/-- The six counters of a group (R61). -/
structure GroupCounters where
  lineEvents : Word
  idleEvents : Word
  heldEvents : Word
  trigAccepted : Word
  trigBusy : Word
  trigFast : Word
  deriving DecidableEq, Repr

/-- The interval monitor of a group (R60). -/
structure IntervalMonitor where
  last : BitVec 24
  min : BitVec 24
  max : BitVec 24
  saturated : Bool
  deriving DecidableEq, Repr

/-- A drain waiter's state (R67, R68): a due waiter notes the job whose end emptied the list, and is ready once that job's
JOB_END has been placed in the holding list. -/
inductive WaiterState where
  | parked
  | due (job : CtxId)
  | ready
  deriving DecidableEq, Repr

/-- A drain waiter (R67). -/
structure DrainWaiter where
  cmdId : Short
  state : WaiterState
  deriving DecidableEq, Repr

/-- The part of a group's record that CONFIG_GROUP does not write whole (R48). -/
structure GroupState where
  clock : LineClock
  hold : HoldState
  lastAccepted : Option Nat
  counters : GroupCounters
  monitor : IntervalMonitor
  latched : Option Latched
  waiters : List DrainWaiter
  deriving DecidableEq, Repr

/-! ## Command Processor (06_command_rings.md) -/

/-- The registers of a submission ring (R107). -/
structure RingRegs where
  base : Addr
  size : Short
  producer : Short
  consumer : Short
  deriving DecidableEq, Repr

/-- The parameters of a START_JOB whose record checks have passed (R133). -/
structure JobParams where
  group : GroupId
  profile : ProfileId
  policy : Policy
  depth : Nat
  armLevel : Nat
  markEvery : Short
  isOpen : Bool
  extentCount : Nat
  deriving DecidableEq, Repr

/-- A command whose table read is in flight (R114, R115), with what it still needs when the table comes. -/
inductive AuxCommand where
  | configLanes (cmdId : Short) (firstLane count : Byte)
  | loadProfile (cmdId : Short) (profile : ProfileId)
  | startJob (cmdId : Short) (tag : Word) (params : JobParams)
  | appendLines (cmdId : Short) (tag : Word) (group : GroupId) (supplied : Nat) (extentCount : Nat)
  deriving DecidableEq, Repr

/-- State of the Command Processor (R110); a read in flight has its ring and its expiry, a moment of `Clock.now`. -/
inductive CpState where
  | stopped
  | reserving
  | looking
  | record (ring : SubRing) (expiry : Nat)
  | auxiliary (ring : SubRing) (expiry : Nat) (command : AuxCommand)
  deriving DecidableEq, Repr

/-- The Command Processor (R107, R110, R112, R120). -/
structure CommandProcessor where
  state : CpState
  reserved : Bool
  priority : RingRegs
  normal : RingRegs
  count : Nat
  voidReads : Nat
  deriving DecidableEq, Repr

/-! ## Completion Unit (08_completions_and_the_interrupt.md) -/

/-- STATUS of a RESPONSE (R124), coded 0 to 14 in this order. -/
inductive Status where
  | ok
  | badField
  | readFault
  | groupOff
  | groupBusy
  | laneConflict
  | followLoop
  | tagInUse
  | noContext
  | listFull
  | notFound
  | jobEnded
  | jobClosed
  | extentsFull
  | waitLimit
  deriving DecidableEq, Repr

/-- A completion record (R151), before the LAP flag is put on it. -/
inductive CompRecord where
  | response (cmdId : Short) (status : Status) (value : Word)
  | jobEnd (tag : Word) (context : CtxId) (status : EndStatus)
      (linesFired linesSkipped heldEvents clipped noticesLost : Word)
  | mark (tag : Word) (linesFired : Word)
  | extentDone (tag : Word) (ordinal : Nat)
  deriving DecidableEq, Repr

/-- The completion ring (R147 to R150); `times` are the write times of the unreleased entries, oldest first (R148). -/
structure CompletionRing where
  base : Addr
  size : Short
  producer : Short
  consumer : Short
  lap : Bool
  stopped : Bool
  times : List Nat
  deriving DecidableEq, Repr

/-- INT_MOD (R157). -/
structure IntMod where
  threshold : Byte
  age : Short
  deriving DecidableEq, Repr

/-- What the part issues on the host port (00_scope.md; assumption 14). -/
inductive LinkMsg where
  | memRead (address : Addr) (length : Nat)
  | memWrite (address : Addr) (bytes : List Byte)
  | interrupt
  deriving DecidableEq, Repr

/-! ## The whole state -/

/-- The part. INVENTORY.md lists each field with its rule and its reset value. -/
structure State where
  clock : Clock
  inReset : Option Nat
  run : Bool
  resetting : Bool
  fetchLimit : Byte
  dividerHeld : BitVec 5
  divider : BitVec 5
  fault : FaultReg
  jobs : Vector (Option Job) 16
  lists : Vector (List CtxId) 4
  endQueue : List CtxId
  slots : Vector Slot 32
  slotWait : List CtxId
  tracker : Vector (Option LineRead) 4
  lastServed : GroupId
  lateReads : Nat
  configs : Vector GroupFields 4
  groups : Vector GroupState 4
  eligible : List GroupId
  profiles : Vector Profile 8
  lanes : Vector LaneRecord 64
  pulses : Vector Pulse 64
  cp : CommandProcessor
  comp : CompletionRing
  holding : List CompRecord
  intMod : IntMod
  condition : Bool
  link : List LinkMsg
  pending : List Instr
  deriving DecidableEq, Repr

/-- Why a step stops with a fault. -/
inductive Fault where
  /-- Raised by FETCH_DATA_ANSWER and AUXILIARY_READ_DATA when the data is not as long as the read asked for: the spec knows no
  such answer. Safe: the hardware cannot go on from an event it cannot meet. -/
  | answerLength
  deriving DecidableEq, Repr

/-- Why a step refuses its command. -/
inductive Refusal where
  /-- Raised by nothing: every row of the table has its meaning. Safe. -/
  | notModelled (mnemonic : String)
  /-- Raised by UNKNOWN_OPCODE with an OPCODE that names a command: the term is no event of the part. Safe. -/
  | illFormed
  deriving DecidableEq, Repr

/-! ## Reset values -/

/-- An empty kind set (R165). -/
def noKinds : FaultKinds := { ringRead := false, ringIndex := false, config := false, compIndex := false }

/-- FAULT after either reset (R165). -/
def FaultReg.reset : FaultReg := { kinds := noKinds, ring := .none, index := 0 }

/-- A FREE slot with zero levels (R24). -/
def Slot.reset : Slot := { state := .free, levels := Vector.replicate 64 0 }

/-- A group's configuration after device reset (R51). -/
def GroupFields.reset : GroupFields :=
  { firstLane := 0, laneCount := 0, source := 0, edge := 0, leader := 0, period := 256, delay := 0, minInterval := 0 }

/-- All six counters 0 (R61). -/
def GroupCounters.reset : GroupCounters :=
  { lineEvents := 0, idleEvents := 0, heldEvents := 0, trigAccepted := 0, trigBusy := 0, trigFast := 0 }

/-- LAST 0, MIN 16,777,215, MAX 0, SATURATED clear (R60). -/
def IntervalMonitor.reset : IntervalMonitor := { last := 0, min := 0xFFFFFF, max := 0, saturated := false }

/-- The rest of a group's record after device reset (R51). -/
def GroupState.reset : GroupState :=
  { clock := .stopped, hold := .none, lastAccepted := none, counters := GroupCounters.reset, monitor := IntervalMonitor.reset,
    latched := none, waiters := [] }

/-- A profile after device reset (R74). -/
def Profile.reset : Profile := { entries := Vector.replicate 16 { delay := 0, width := 0 }, generation := 0 }

/-- A lane record after device reset (R71). -/
def LaneRecord.reset : LaneRecord := { enable := true, polarity := .activeHigh, trim := 0 }

/-- A submission ring after device reset (R107). -/
def RingRegs.reset : RingRegs := { base := 0, size := 0, producer := 0, consumer := 0 }

/-- The Command Processor after device reset (R119). -/
def CommandProcessor.reset : CommandProcessor :=
  { state := .stopped, reserved := false, priority := RingRegs.reset, normal := RingRegs.reset, count := 0, voidReads := 0 }

/-- The completion ring after device reset (R147, R149). -/
def CompletionRing.reset : CompletionRing :=
  { base := 0, size := 0, producer := 0, consumer := 0, lap := true, stopped := false, times := [] }

/-- The machine when a device reset has completed: what 09 R169 and the chapters it names state. The clock's fields, `link` and
`pending` are the model's own (assumptions 1, 2, 14, 18, 19). -/
def State.reset : State :=
  { clock := { mhz := 100, now := 0, tick := 0, phase := 0 }
    inReset := none
    run := false
    resetting := false
    fetchLimit := 125
    dividerHeld := 1
    divider := 1
    fault := FaultReg.reset
    jobs := Vector.replicate 16 none
    lists := Vector.replicate 4 []
    endQueue := []
    slots := Vector.replicate 32 Slot.reset
    slotWait := []
    tracker := Vector.replicate 4 none
    lastServed := 3
    lateReads := 0
    configs := Vector.replicate 4 GroupFields.reset
    groups := Vector.replicate 4 GroupState.reset
    eligible := []
    profiles := Vector.replicate 8 Profile.reset
    lanes := Vector.replicate 64 LaneRecord.reset
    pulses := Vector.replicate 64 .none
    cp := CommandProcessor.reset
    comp := CompletionRing.reset
    holding := []
    intMod := { threshold := 1, age := 0 }
    condition := false
    link := []
    pending := [] }

end Sys2Proof.Machine
end

