-- ==== Sys2Proof/Machine/Flags.lean ====
section
/-! DEFINITION. Machine/Flags.lean: what is computed from the state rather than stored: saturating counts, codes of the formats
chapter, unreleased count, interrupt condition, and the words the host reads from the register window. -/

namespace Sys2Proof.Machine

/-! ## Saturating counters (R19, R61) -/

/-- Add to a 32-bit counter that stays at 4,294,967,295. -/
def satAdd (x : Word) (n : Nat) : Word := if x.toNat + n ≤ 4294967295 then BitVec.ofNat 32 (x.toNat + n) else 4294967295

/-- Increase a saturating 32-bit counter by one. -/
def satInc (x : Word) : Word := satAdd x 1

/-! ## Codes -/

/-- RING of FAULT (10.5). -/
def FaultRing.code : FaultRing → BitVec 2
  | .none => 0
  | .priority => 1
  | .normal => 2
  | .completion => 3

/-- STATUS of a RESPONSE (R124). -/
def Status.code : Status → Byte
  | .ok => 0
  | .badField => 1
  | .readFault => 2
  | .groupOff => 3
  | .groupBusy => 4
  | .laneConflict => 5
  | .followLoop => 6
  | .tagInUse => 7
  | .noContext => 8
  | .listFull => 9
  | .notFound => 10
  | .jobEnded => 11
  | .jobClosed => 12
  | .extentsFull => 13
  | .waitLimit => 14

/-- End STATUS of a JOB_END (R151). -/
def EndStatus.code : EndStatus → Byte
  | .ended => 0
  | .aborted => 1
  | .underrun => 2
  | .fetchFault _ => 3

/-- The hold state in a report record (10.4). -/
def HoldState.code : HoldState → Byte
  | .none => 0
  | .pending => 1
  | .held => 2

/-! ## Fault kinds (R165, R166) -/

/-- The kind set is not empty. -/
def faultPending (k : FaultKinds) : Bool := k.ringRead || k.ringIndex || k.config || k.compIndex

/-- A kind joins the set (R165). -/
def joinKinds (k new : FaultKinds) : FaultKinds :=
  { ringRead := k.ringRead || new.ringRead, ringIndex := k.ringIndex || new.ringIndex, config := k.config || new.config,
    compIndex := k.compIndex || new.compIndex }

/-- The kinds written as 1 leave the set (R166). -/
def dropKinds (k written : FaultKinds) : FaultKinds :=
  { ringRead := k.ringRead && !written.ringRead, ringIndex := k.ringIndex && !written.ringIndex,
    config := k.config && !written.config, compIndex := k.compIndex && !written.compIndex }

/-! ## The completion ring (R148) -/

/-- The unreleased count: (PRODUCER − CONSUMER) mod SIZE. -/
def unreleased (c : CompletionRing) : Nat :=
  (c.producer.toNat + c.size.toNat - c.consumer.toNat) % c.size.toNat

/-- The ring is full: (PRODUCER + 1) mod SIZE equals CONSUMER. -/
def ringFull (c : CompletionRing) : Bool := decide ((c.producer.toNat + 1) % c.size.toNat = c.consumer.toNat)

/-! ## Job contexts and groups -/

/-- The number of live contexts (R164). -/
def liveContexts (s : State) : Nat := (s.jobs.toList.filter Option.isSome).length

/-- The state of the job in a context, if it is live. -/
def jobStateOf (s : State) (c : CtxId) : Option JobState := s.jobs[c].map Job.state

/-- A job of the group's list is in one of the states a test names. -/
def listHas (s : State) (g : GroupId) (test : JobState → Bool) : Bool :=
  s.lists[g].any fun c => (jobStateOf s c).any test

/-- RUNNING. -/
def isRunning (st : JobState) : Bool := decide (st = .running)

/-- RUNNING or FINISHING. -/
def isFiringState (st : JobState) : Bool := decide (st = .running ∨ st = .finishing)

/-- The run state of a group (R50), coded 0 OFF, 1 IDLE, 2 BUSY (10.4). -/
def runState (s : State) (g : GroupId) : Byte :=
  if s.configs[g].laneCount = 0 then 0 else if listHas s g isFiringState then 2 else 1

/-! ## The interrupt condition (R158) -/

/-- The oldest unreleased entry has waited AGE µs or more. -/
def oldestAged (s : State) : Bool :=
  match s.comp.times with
  | [] => false
  | t :: _ => decide (s.intMod.age ≠ 0) && decide (t + s.intMod.age.toNat * s.clock.mhz ≤ s.clock.now)

/-- The interrupt condition as R158 states it at this moment. -/
def conditionNow (s : State) : Bool :=
  decide (s.intMod.threshold.toNat ≤ unreleased s.comp) || oldestAged s || faultPending s.fault.kinds

/-! ## Words of the register window (10.5) -/

/-- A flag as a number, for packing a word. -/
def bit (b : Bool) : Nat := if b then 1 else 0

/-- CONTROL: RUN, ENGINE_RESET (reads 0), FETCH_LIMIT, TICK_DIVIDER. -/
def controlWord (s : State) : Word :=
  BitVec.ofNat 32 (bit s.run + s.fetchLimit.toNat * 2 ^ 8 + s.dividerHeld.toNat * 2 ^ 16)

/-- RUNNING of STATUS: the Command Processor is not STOPPED (R164). -/
def cpRunning (s : State) : Bool := decide (s.cp.state ≠ .stopped)

/-- The word STATUS and FAULT share (R164, R165). -/
def statusFaultWord (s : State) : Word :=
  BitVec.ofNat 32 (bit (cpRunning s) + bit s.resetting * 2 + bit (faultPending s.fault.kinds) * 2 ^ 2 + bit s.condition * 2 ^ 3
    + liveContexts s * 2 ^ 4 + s.fault.ring.code.toNat * 2 ^ 10 + bit s.fault.kinds.ringRead * 2 ^ 12
    + bit s.fault.kinds.ringIndex * 2 ^ 13 + bit s.fault.kinds.config * 2 ^ 14 + bit s.fault.kinds.compIndex * 2 ^ 15
    + s.fault.index.toNat * 2 ^ 16)

/-- The registers of a submission ring. -/
def ringRegs (cp : CommandProcessor) : SubRing → RingRegs
  | .priority => cp.priority
  | .normal => cp.normal

/-- The word of a submission ring at a place of its block of four (R107, R160). -/
def submissionWord (r : RingRegs) (place : Nat) : Word :=
  match place with
  | 0 => r.base.extractLsb' 0 32
  | 1 => r.base.extractLsb' 32 32
  | 2 => r.consumer ++ r.size
  | 3 => (0 : Short) ++ r.producer
  | _ => 0

/-- What a host read of the window's word at a byte offset returns (R160); a read changes no state. The host port takes no read
while a device reset is taken (R169), nor one outside the window. -/
def readWindow (s : State) (offset : Nat) : Option Word :=
  if s.inReset.isSome then none
  else match offset with
  | 0x00 => some Config.identWord
  | 0x04 => some (controlWord s)
  | 0x08 => some (statusFaultWord s)
  | 0x0C => some (s.intMod.age ++ (0 : Byte) ++ s.intMod.threshold)
  | 0x10 => some (submissionWord s.cp.priority 0)
  | 0x14 => some (submissionWord s.cp.priority 1)
  | 0x18 => some (submissionWord s.cp.priority 2)
  | 0x1C => some (submissionWord s.cp.priority 3)
  | 0x20 => some (submissionWord s.cp.normal 0)
  | 0x24 => some (submissionWord s.cp.normal 1)
  | 0x28 => some (submissionWord s.cp.normal 2)
  | 0x2C => some (submissionWord s.cp.normal 3)
  | 0x30 => some (s.comp.base.extractLsb' 0 32)
  | 0x34 => some (s.comp.base.extractLsb' 32 32)
  | 0x38 => some (s.comp.producer ++ s.comp.size)
  | 0x3C => some ((0 : Short) ++ s.comp.consumer)
  | _ => none

/-! ## Lane outputs (R72, R87) -/

/-- A pulse that is ACTIVE. -/
def pulseActive : Pulse → Bool
  | .active _ _ _ _ => true
  | .none => false
  | .scheduled _ _ _ _ => false

/-- The output level of a lane, true for high: low while a device reset is taken (R87), else active or idle by POLARITY. -/
def laneLevel (s : State) (lane : LaneId) : Bool :=
  if s.inReset.isSome then false
  else match s.lanes[lane].polarity with
    | .activeHigh => pulseActive s.pulses[lane]
    | .activeLow => !pulseActive s.pulses[lane]

end Sys2Proof.Machine
end

