-- ==== Sys2Proof/Machine/Operands.lean ====
section
/-! DEFINITION. Machine/Operands.lean: what the operands of the commands mean: codes, ranges and record checks (R126, R130, R132,
R134, R137), the spans and line sizes of groups (R49), and the tables commands read (10.2, R171). -/

namespace Sys2Proof.Machine

/-! ## Codes and numbers of record fields -/

/-- A group number in TARGET (R121): none above 3. -/
def targetGroup (target : Word) : Option GroupId :=
  if h : target.toNat < 4 then some ⟨target.toNat, h⟩ else none

/-- A group number in a byte field. -/
def byteGroup (b : Byte) : Option GroupId := if h : b.toNat < 4 then some ⟨b.toNat, h⟩ else none

/-- A profile number in a byte field (R132, R133). -/
def byteProfile (b : Byte) : Option ProfileId := if h : b.toNat < 8 then some ⟨b.toNat, h⟩ else none

/-- POLICY (10.1). -/
def bytePolicy (b : Byte) : Option Policy :=
  match b.toNat with
  | 0 => some .skip
  | 1 => some .hold
  | 2 => some .stop
  | _ => none

/-- SOURCE of a group (R48). -/
inductive LineSource where
  | internal
  | external
  | follow
  deriving DecidableEq, Repr

/-- SOURCE (10.1). -/
def byteSource (b : Byte) : Option LineSource :=
  match b.toNat with
  | 0 => some .internal
  | 1 => some .external
  | 2 => some .follow
  | _ => none

/-- EDGE (10.1). -/
def byteEdge (b : Byte) : Option Edge :=
  match b.toNat with
  | 0 => some .rising
  | 1 => some .falling
  | _ => none

/-- An address in host memory that a command may name: a multiple of 4 (R121). -/
def aligned4 (a : Addr) : Bool := decide (a.toNat % 4 = 0)

/-! ## Group configurations (R48, R49) -/

/-- A configured group: not OFF. -/
def configured (f : GroupFields) : Bool := decide (f.laneCount ≠ 0)

/-- The configuration is that of a configured group with this source. -/
def hasSource (f : GroupFields) (src : LineSource) : Bool := configured f && decide (byteSource f.source = some src)

/-- The lane lies in the span (R49); an OFF group has none. -/
def inSpan (f : GroupFields) (lane : Nat) : Bool :=
  decide (f.firstLane.toNat ≤ lane ∧ lane < f.firstLane.toNat + f.laneCount.toNat)

/-- The two spans share a lane. -/
def spansMeet (f f' : GroupFields) : Bool := (List.range 64).any fun lane => inSpan f lane && inSpan f' lane

/-- Line size in bytes: half the lane count, rounded up (R49). -/
def lineSize (f : GroupFields) : Nat := (f.laneCount.toNat + 1) / 2

/-- The group follows that leader directly (R53). -/
def followsDirect (configs : Vector GroupFields 4) (follower leader : GroupId) : Bool :=
  hasSource configs[follower] .follow && decide (configs[follower].leader.toNat = leader.val)

/-- The walk from a group along LEADER reaches the target in at most so many groups (R128). -/
def walkReaches (configs : Vector GroupFields 4) (target : GroupId) : Nat → GroupId → Bool
  | 0, _ => false
  | n + 1, g =>
    decide (g = target) ||
      (hasSource configs[g] .follow &&
        match byteGroup configs[g].leader with
        | some l => walkReaches configs target n l
        | none => false)

/-- The group follows the target, directly or through a chain (R127). -/
def follows (configs : Vector GroupFields 4) (target g : GroupId) : Bool :=
  decide (g ≠ target) && walkReaches configs target 4 g

/-! ## Record checks -/

/-- CONFIG_GROUP's record checks past TARGET (R126). -/
def groupFieldsOk (target : GroupId) (f : GroupFields) : Bool :=
  decide (f.laneCount.toNat ≤ 64) &&
    (decide (f.laneCount = 0) ||
      (decide (f.firstLane.toNat ≤ 63 ∧ f.firstLane.toNat + f.laneCount.toNat ≤ 64) &&
        match byteSource f.source with
        | none => false
        | some .internal => decide (256 ≤ f.period.toNat ∧ f.period.toNat ≤ 16777215)
        | some .external =>
          decide (f.delay.toNat ≤ 1048575) && (byteEdge f.edge).isSome && decide (f.minInterval.toNat ≤ 16777215)
        | some .follow =>
          decide (f.delay.toNat ≤ 1048575) && decide (f.leader.toNat ≤ 3 ∧ f.leader.toNat ≠ target.val)))

/-- CONFIG_LANES' record checks (R130). -/
def lanesFieldsOk (firstLane count : Byte) (address : Addr) : Bool :=
  decide (firstLane.toNat ≤ 63 ∧ 1 ≤ count.toNat ∧ count.toNat ≤ 64 ∧ firstLane.toNat + count.toNat ≤ 64) && aligned4 address

/-- START_JOB's record checks (R134 check 1), giving the parameters; none is BAD_FIELD. -/
def jobParams (f : StartFields) : Option JobParams :=
  match byteGroup f.group, byteProfile f.profile, bytePolicy f.policy with
  | some g, some p, some pol =>
    if (2 ≤ f.depth.toNat ∧ f.depth.toNat ≤ 16) ∧ (1 ≤ f.armLevel.toNat ∧ f.armLevel.toNat ≤ f.depth.toNat) ∧
        f.extentCount.toNat ≤ 16 ∧ (f.isOpen = true ∨ f.extentCount ≠ 0) ∧ (f.extentCount = 0 ∨ aligned4 f.listAddress = true)
    then some { group := g, profile := p, policy := pol, depth := f.depth.toNat, armLevel := f.armLevel.toNat,
                markEvery := f.markEvery, isOpen := f.isOpen, extentCount := f.extentCount.toNat }
    else none
  | _, _, _ => none

/-- APPEND_LINES' record checks (R137 check 1). -/
def appendFieldsOk (extentCount : Byte) (listAddress : Addr) : Bool :=
  decide (1 ≤ extentCount.toNat ∧ extentCount.toNat ≤ 16) && aligned4 listAddress

/-! ## Tables (10.2, R171) -/

/-- A lane record's four bytes; none is a code out of range. -/
def laneRecordAt (table : List Byte) (i : Nat) : Option LaneRecord :=
  match (byteAt table (4 * i)).toNat, (byteAt table (4 * i + 1)).toNat with
  | 0, 0 => some { enable := false, polarity := .activeHigh, trim := byteAt table (4 * i + 2) }
  | 0, 1 => some { enable := false, polarity := .activeLow, trim := byteAt table (4 * i + 2) }
  | 1, 0 => some { enable := true, polarity := .activeHigh, trim := byteAt table (4 * i + 2) }
  | 1, 1 => some { enable := true, polarity := .activeLow, trim := byteAt table (4 * i + 2) }
  | _, _ => none

/-- The lane records of a CONFIG_LANES, whole or not at all (R122). -/
def laneTable (table : List Byte) (count : Nat) : Option (List LaneRecord) :=
  (List.range count).mapM (laneRecordAt table)

/-- Entry L of a profile record. -/
def profileEntryAt (table : List Byte) (level : Nat) : ProfileEntry :=
  { delay := shortAt table (4 * level), width := shortAt table (4 * level + 2) }

/-- The entries of a profile record, if every DELAY is in range (R75). -/
def profileTable (table : List Byte) : Option (Vector ProfileEntry 16) :=
  if (List.range 16).all fun l => decide ((profileEntryAt table l).delay.toNat ≤ Config.maxEntryDelay)
  then some (Vector.ofFn fun l : Fin 16 => profileEntryAt table l.val)
  else none

/-- An extent entry as it stands in the list read, before the job gives it its first line; none is a field out of range (R135). -/
def extentAt (size : Nat) (table : List Byte) (i : Nat) : Option Extent :=
  let e : Extent :=
    { base := addrAt table (16 * i), lines := shortAt table (16 * i + 8), stride := shortAt table (16 * i + 10),
      notify := bitZero (byteAt table (16 * i + 12)), firstLine := 0, settled := 0 }
  if e.lines ≠ 0 ∧ aligned4 e.base = true ∧ e.stride.toNat % 4 = 0 ∧ size ≤ e.stride.toNat then some e else none

/-- An extent list, whole or not at all (R122). -/
def extentTable (size : Nat) (table : List Byte) (count : Nat) : Option (List Extent) :=
  (List.range count).mapM (extentAt size table)

/-- Sum of LINES (R4). -/
def totalLines (extents : List Extent) : Nat := (extents.map fun e => e.lines.toNat).sum

/-- Each extent gets its first line from the running value of lines supplied (R89, R90). -/
def numberExtents : Nat → List Extent → List Extent
  | _, [] => []
  | n, e :: es => { e with firstLine := n, settled := 0 } :: numberExtents (n + e.lines.toNat) es

/-- Length in bytes of the table a command reads (10.2). -/
def auxLength : AuxCommand → Nat
  | .configLanes _ _ count => 4 * count.toNat
  | .loadProfile _ _ => 64
  | .startJob _ _ p => 16 * p.extentCount
  | .appendLines _ _ _ _ extentCount => 16 * extentCount

/-- CMD_ID of a command whose table read is in flight. -/
def auxCmdId : AuxCommand → Short
  | .configLanes id _ _ => id
  | .loadProfile id _ => id
  | .startJob id _ _ => id
  | .appendLines id _ _ _ _ => id

end Sys2Proof.Machine
end

