-- ==== Sys2Proof/Machine/Ops.lean ====
section
/-! DEFINITION. Machine/Ops.lean: the operations the commands share: tables, time, the host port, faults and the interrupt, the
holding list and its claimants, job contexts, extents, slots, the grant rule, arming, and the end of a job. -/

namespace Sys2Proof.Machine

/-- The outcome of one command. -/
abbrev Result := Host.Outcome State Fault Refusal

/-! ## Tables -/

/-- Every row of a table changed by a function of its index and its value. -/
def vmap {α β : Type} {n : Nat} (f : Fin n → α → β) (v : Vector α n) : Vector β n :=
  ⟨⟨(List.finRange n).map fun i => f i v[i]⟩, by simp⟩

/-- One row of a table changed. -/
def vmod {α : Type} {n : Nat} (v : Vector α n) (i : Fin n) (f : α → α) : Vector α n := v.set i (f v[i])

/-! ## Time (R47, assumptions 2, 3) -/

/-- So many REFCLK periods pass. -/
def advance (k : Nat) (s : State) : State :=
  { s with clock := { s.clock with
      now := s.clock.now + k
      tick := s.clock.tick + (s.clock.phase + k) / s.divider.toNat
      phase := (s.clock.phase + k) % s.divider.toNat } }

/-- Time passes up to the start of a tick, if that lies ahead. -/
def toTick (t : Nat) (s : State) : State :=
  if s.clock.tick < t then
    { s with clock := { s.clock with
        now := s.clock.now + ((t - s.clock.tick) * s.divider.toNat - s.clock.phase), tick := t, phase := 0 } }
  else s

/-- Time passes up to a moment of `Clock.now`, if that lies ahead. -/
def toMoment (m : Nat) (s : State) : State := if s.clock.now < m then advance (m - s.clock.now) s else s

/-- A length of time in microseconds, in REFCLK periods. -/
def periods (s : State) (micros : Nat) : Nat := micros * s.clock.mhz

/-- The fetch limit in microseconds (R94). -/
def fetchLimitMicros (v : Byte) : Nat := if v = 0 then 2048 else v.toNat * 8

/-- The expiry of a read issued now (R93, R94). -/
def readExpiry (s : State) : Nat := s.clock.now + periods s (fetchLimitMicros s.fetchLimit)

/-- The tick divider in effect becomes the held value, and a tick begins (R163, assumption 18). -/
def latchDivider (s : State) : State := { s with divider := s.dividerHeld, clock := { s.clock with phase := 0 } }

/-! ## The host port -/

/-- The part issues a read, a write or a message. -/
def emit (m : LinkMsg) (s : State) : State := { s with link := s.link ++ [m] }

/-- A host write is lost while a device reset is taken (R169). -/
def hostWrite (f : State → State) (s : State) : State := if s.inReset.isSome then s else f s

/-! ## Interrupt and faults -/

/-- The interrupt condition is evaluated, and a message sent when it is found true after it was false (R158, R159). -/
def evalInterrupt (s : State) : State :=
  if conditionNow s && !s.condition then emit .interrupt { s with condition := conditionNow s }
  else { s with condition := conditionNow s }

/-- FAULT with one more fault recorded: RING and INDEX are those of the first since the set was empty (R165). -/
def recordFault (f : FaultReg) (kind : FaultKinds) (ring : FaultRing) (index : Short) : FaultReg :=
  if faultPending f.kinds then { f with kinds := joinKinds f.kinds kind } else { kinds := kind, ring := ring, index := index }

/-- A fault is handed to Device Control; a change of the kind set makes the condition be evaluated (R165). -/
def handFault (kind : FaultKinds) (ring : FaultRing) (index : Short) (s : State) : State :=
  if joinKinds s.fault.kinds kind = s.fault.kinds then s
  else evalInterrupt { s with fault := recordFault s.fault kind ring index }

/-- The kind RING_READ alone. -/
def kindRingRead : FaultKinds := { noKinds with ringRead := true }
/-- The kind RING_INDEX alone. -/
def kindRingIndex : FaultKinds := { noKinds with ringIndex := true }
/-- The kind CONFIG alone. -/
def kindConfig : FaultKinds := { noKinds with config := true }
/-- The kind COMP_INDEX alone. -/
def kindCompIndex : FaultKinds := { noKinds with compIndex := true }

/-- A submission ring as RING of FAULT. -/
def subRingFault : SubRing → FaultRing
  | .priority => .priority
  | .normal => .normal

/-! ## The holding list (R152, R153) -/

/-- An unreserved holding entry is free. -/
def unreservedFree (s : State) : Bool :=
  decide (s.holding.length + bit s.cp.reserved < Config.holdingCapacity)

/-- A record is placed at the back of the holding list. -/
def place (r : CompRecord) (s : State) : State := { s with holding := s.holding ++ [r] }

/-! ## Job contexts -/

/-- A live context is changed. -/
def modJob (c : CtxId) (f : Job → Job) (s : State) : State := { s with jobs := vmod s.jobs c (Option.map f) }

/-- A group's record past its configuration is changed. -/
def modGroup (g : GroupId) (f : GroupState → GroupState) (s : State) : State := { s with groups := vmod s.groups g f }

/-- A job's state is changed. -/
def setJobState (c : CtxId) (st : JobState) (s : State) : State := modJob c (fun j => { j with state := st }) s

/-- The end status of a state. -/
def endStatusOf : JobState → Option EndStatus
  | .ended st => some st
  | .pending | .waiting | .primed | .armed | .running | .finishing => none

/-- The job is not ENDED. -/
def notEnded (j : Job) : Bool := (endStatusOf j.state).isNone

/-- The context that carries a TAG, the lowest-numbered of the live ones (R3: there is at most one). -/
def findTag (s : State) (tag : Word) : Option CtxId :=
  (List.finRange 16).find? fun c => s.jobs[c].any fun j => decide (j.tag = tag)

/-- The lowest-numbered free context (R2). -/
def freeContext (s : State) : Option CtxId := (List.finRange 16).find? fun c => s.jobs[c].isNone

/-- A MARK or EXTENT_DONE is offered once: placed, or dropped and counted in NOTICES_LOST (R20, R104, R153). -/
def offerNotice (c : CtxId) (r : CompRecord) (s : State) : State :=
  if unreservedFree s then place r s else modJob c (fun j => { j with noticesLost := satInc j.noticesLost }) s

/-! ## Placing JOB_END records and drain responses (R21, R68, R153, R154) -/

/-- The oldest waiter may be offered. -/
def frontReady (g : GroupState) : Bool :=
  match g.waiters with
  | [] => false
  | w :: _ => decide (w.state = .ready)

/-- Groups whose oldest due response has just become eligible join the order of eligible responses (R154). -/
def noteEligible (s : State) : State :=
  { s with eligible := s.eligible ++ (List.finRange 4).filter fun g => frontReady s.groups[g] && !s.eligible.contains g }

/-- The JOB_END of a job has been placed: the waiters that note it may be offered. -/
def readyWaiter (c : CtxId) (w : DrainWaiter) : DrainWaiter := if w.state = .due c then { w with state := .ready } else w

/-- The JOB_END record of an ended job (R21). -/
def jobEndRecord (c : CtxId) (j : Job) (st : EndStatus) : CompRecord :=
  .jobEnd j.tag c st j.linesFired j.linesSkipped j.heldEvents j.clipped j.noticesLost

/-- The end queue is set. -/
def setEndQueue (l : List CtxId) (s : State) : State := { s with endQueue := l }

/-- The order of eligible drain responses is set. -/
def setEligible (l : List GroupId) (s : State) : State := { s with eligible := l }

/-- The waiters that note a job whose JOB_END has been placed may be offered (R68). -/
def readyWaiters (c : CtxId) (s : State) : State :=
  { s with groups := vmap (fun _ g => { g with waiters := g.waiters.map (readyWaiter c) }) s.groups }

/-- The JOB_END at the head of the end queue is placed, if an unreserved entry is free (R21). -/
def placeJobEnd (s : State) : State :=
  match s.endQueue with
  | [] => s
  | c :: rest =>
    if unreservedFree s then
      match s.jobs[c] with
      | none => setEndQueue rest s
      | some j =>
        match endStatusOf j.state with
        | none => setEndQueue rest s
        | some st => noteEligible (readyWaiters c (setEndQueue rest (place (jobEndRecord c j st) s)))
    else s

/-- The oldest waiter of a group leaves the list (R68). -/
def dropWaiter (g : GroupId) (s : State) : State := modGroup g (fun x => { x with waiters := x.waiters.tail }) s

/-- The oldest eligible due drain response is placed, if an unreserved entry is free (R68). -/
def placeDrain (s : State) : State :=
  match s.eligible with
  | [] => s
  | g :: rest =>
    if unreservedFree s then
      match s.groups[g].waiters with
      | [] => setEligible rest s
      | w :: _ => noteEligible (setEligible rest (dropWaiter g (place (.response w.cmdId .ok 0) s)))
    else s

/-- While an unreserved entry is free, waiting offers take one, a JOB_END before a drain response (R21, R68, R154). -/
def settleOffers : Nat → State → State
  | 0, s => s
  | n + 1, s =>
    if unreservedFree s then
      if s.endQueue ≠ [] then settleOffers n (placeJobEnd s)
      else if s.eligible ≠ [] then settleOffers n (placeDrain s)
      else s
    else s

/-! ## Slots (02_the_line_store.md) -/

/-- Owner and ring index of a slot in a ring (R24). -/
def ringPlace : SlotState → Option (CtxId × Nat)
  | .free => none
  | .discard => none
  | .empty c i => some (c, i)
  | .filling c i _ => some (c, i)
  | .ready c i _ => some (c, i)
  | .firing c i _ => some (c, i)
  | .stale c i _ => some (c, i)

/-- The slot at a ring index of a job's ring (R26). -/
def slotAt (s : State) (c : CtxId) (index : Nat) : Option SlotId :=
  (List.finRange 32).find? fun i => decide (ringPlace s.slots[i].state = some (c, index))

/-- A slot's state is changed; its levels stay. -/
def setSlot (i : SlotId) (st : SlotState) (s : State) : State :=
  { s with slots := vmod s.slots i fun x => { x with state := st } }

/-- The slot is FREE. -/
def slotFree (s : State) (i : SlotId) : Bool := decide (s.slots[i].state = .free)

/-- The FREE slots, lowest number first (R26). -/
def freeSlots (s : State) : List SlotId := (List.finRange 32).filter (slotFree s)

/-- The free count (R25). -/
def freeCount (s : State) : Nat := (freeSlots s).length

/-- The slot is READY. -/
def slotReady : SlotState → Bool
  | .ready _ _ _ => true
  | .free | .empty _ _ | .filling _ _ _ | .firing _ _ _ | .stale _ _ _ | .discard => false

/-- What becomes of a slot of a ring at its release (R40). -/
def releasedState (c : CtxId) (st : SlotState) : SlotState :=
  match st with
  | .free => .free
  | .discard => .discard
  | .empty o _ => if o = c then .free else st
  | .ready o _ _ => if o = c then .free else st
  | .firing o _ _ => if o = c then .free else st
  | .filling o _ _ => if o = c then .discard else st
  | .stale o _ _ => if o = c then .discard else st

/-- The whole ring of a job is released (R40). -/
def releaseRing (c : CtxId) (s : State) : State :=
  { s with slots := vmap (fun _ x => { x with state := releasedState c x.state }) s.slots }

/-- A FIRING slot of the job becomes EMPTY (R33). -/
def firingReleased (c : CtxId) (st : SlotState) : SlotState :=
  match st with
  | .firing o i _ => if o = c then .empty o i else st
  | .free | .empty _ _ | .filling _ _ _ | .ready _ _ _ | .stale _ _ _ | .discard => st

/-- The FIRING slot of a job is released at a delivered line event (R33). -/
def releaseFiring (c : CtxId) (s : State) : State :=
  { s with slots := vmap (fun _ x => { x with state := firingReleased c x.state }) s.slots }

/-! ## Arming (R8) -/

/-- k of R8. -/
def armCount (j : Job) : Nat := min j.armLevel (j.supplied - j.firePos)

/-- The slot at a line's ring index is READY. -/
def lineReady (s : State) (c : CtxId) (j : Job) (line : Nat) : Bool :=
  (slotAt s c (line % j.depth)).any fun i => slotReady s.slots[i].state

/-- The arming condition: the first k slots from the fire position are READY and k is at least 1. -/
def armed (s : State) (c : CtxId) (j : Job) : Bool :=
  decide (1 ≤ armCount j) && (List.range (armCount j)).all fun n => lineReady s c j (j.firePos + n)

/-- A PRIMED job is tested for arming. -/
def armTest (c : CtxId) (s : State) : State :=
  match s.jobs[c] with
  | none => s
  | some j => if j.state = .primed ∧ armed s c j = true then setJobState c .armed s else s

/-! ## The grant rule (R26, R43) -/

/-- The slots given become the ring, ring index by ring index. -/
def assignRing (c : CtxId) : Nat → List SlotId → State → State
  | _, [], s => s
  | index, i :: is, s => assignRing c (index + 1) is (setSlot i (.empty c index) s)

/-- The slot wait list is set. -/
def setWait (l : List CtxId) (s : State) : State := { s with slotWait := l }

/-- The head of the slot wait list is granted its whole ring and becomes PRIMED (R7, R26). -/
def grantTo (c : CtxId) (depth : Nat) (rest : List CtxId) (s : State) : State :=
  armTest c (setJobState c .primed (setWait rest (assignRing c 0 ((freeSlots s).take depth) s)))

/-- The comparison is made for head after head until one finds too few slots (R43). -/
def grantLoop : Nat → State → State
  | 0, s => s
  | n + 1, s =>
    match s.slotWait with
    | [] => s
    | c :: rest =>
      match s.jobs[c] with
      | none => s
      | some j => if j.depth ≤ freeCount s then grantLoop n (grantTo c j.depth rest s) else s

/-- The grant rule is considered (R43). -/
def grant (s : State) : State := grantLoop s.slotWait.length s

/-- A job joins the slot wait list at the back (R42). -/
def joinWait (c : CtxId) (s : State) : State := setJobState c .waiting (setWait (s.slotWait ++ [c]) s)

/-! ## The end of a job (R9) -/

/-- A parked waiter becomes due, noting the job whose end emptied the list (R68). -/
def dueWaiter (c : CtxId) (w : DrainWaiter) : DrainWaiter := if w.state = .parked then { w with state := .due c } else w

/-- The job that has come to position 1, if it is PENDING, becomes WAITING (R6). -/
def moveUp (g : GroupId) (s : State) : State :=
  match s.lists[g][1]? with
  | none => s
  | some d => if jobStateOf s d = some .pending then joinWait d s else s

/-- A job is taken out of a group's list; the order of the others is kept (R5). -/
def dropFromList (c : CtxId) (g : GroupId) (s : State) : State :=
  { s with lists := vmod s.lists g fun l => l.filter fun d => decide (d ≠ c) }

/-- Every parked waiter of a group becomes due (R68). -/
def makeDue (c : CtxId) (g : GroupId) (s : State) : State :=
  modGroup g (fun x => { x with waiters := x.waiters.map (dueWaiter c) }) s

/-- A job leaves its group list; those behind move up; when the list is empty the group is told (R5, R6, R68). -/
def leaveList (c : CtxId) (g : GroupId) (s : State) : State :=
  if (dropFromList c g s).lists[g] = [] then makeDue c g (dropFromList c g s) else moveUp g (dropFromList c g s)

/-- The end status is recorded and the state becomes ENDED; the Fetch Unit discards extents, retired count and cursor (R9, R105). -/
def markEnded (c : CtxId) (st : EndStatus) (s : State) : State :=
  modJob c (fun j => { j with state := .ended st, extents := [], retired := 0, cursor := 0 }) s

/-- A job leaves the slot wait list, if it is in it (R44). -/
def leaveWait (c : CtxId) (s : State) : State := setWait (s.slotWait.filter fun d => decide (d ≠ c)) s

/-- A context joins the end queue at the back (R21). -/
def queueEnd (c : CtxId) (s : State) : State := { s with endQueue := s.endQueue ++ [c] }

/-- A job ends (R9): end status and state, wait list and ring, group list, end queue. The grant rule is considered and the JOB_END
offered in the same event (R21, R40, R43; assumptions 5, 6). -/
def endJob (c : CtxId) (st : EndStatus) (s : State) : State :=
  match s.jobs[c] with
  | none => s
  | some j =>
    settleOffers Config.holdingCapacity
      (grant (queueEnd c (leaveList c j.group (releaseRing c (leaveWait c (markEnded c st s))))))

/-! ## Settling lines and retiring extents (R102 to R104) -/

/-- The extent holds a job line. -/
def holdsLine (n : Nat) (e : Extent) : Bool := decide (e.firstLine ≤ n ∧ n < e.firstLine + e.lines.toNat)

/-- The head extent retires: it leaves the list, the retired count grows, and a notice is offered if NOTIFY is yes. -/
def retireHead (c : CtxId) (e : Extent) (rest : List Extent) (s : State) : State :=
  match s.jobs[c] with
  | none => s
  | some j =>
    let t := modJob c (fun j => { j with extents := rest, retired := j.retired + 1 }) s
    if e.notify then offerNotice c (.extentDone j.tag j.retired) t else t

/-- Extents retire from the head while the head is wholly settled. -/
def retireFrom (c : CtxId) : List Extent → State → State
  | [], s => s
  | e :: es, s => if e.settled = e.lines.toNat then retireFrom c es (retireHead c e es s) else s

/-- A line of a job is settled in its extent. -/
def settleLine (c : CtxId) (n : Nat) (s : State) : State :=
  match s.jobs[c] with
  | none => s
  | some j =>
    let es := j.extents.map fun e => if holdsLine n e then { e with settled := e.settled + 1 } else e
    retireFrom c es (modJob c (fun j => { j with extents := es }) s)

end Sys2Proof.Machine
end

