-- ==== Sys2Proof/Machine/LineOps.lean ====
section
/-! DEFINITION. Machine/LineOps.lean: a line event and all it reaches: cuts, the profile latch, pulse formation, firing,
underrun, the start of a job, idle events, the hold logic, and the followers of the group. -/

namespace Sys2Proof.Machine

/-! ## Pulses (4.4, 4.5) -/

/-- Group and job of a pulse in progress: SCHEDULED or ACTIVE (R79). -/
def pulseJob : Pulse → Option (GroupId × CtxId)
  | .none => none
  | .scheduled _ _ g c => some (g, c)
  | .active _ _ g c => some (g, c)

/-- The outstanding count of a group (R81). -/
def outstanding (s : State) (g : GroupId) : Nat :=
  (s.pulses.toList.filter fun p => (pulseJob p).any fun x => decide (x.1 = g)).length

/-- Every pulse in progress in the group's span is cut (R82, R85). -/
def cutSpan (g : GroupId) (s : State) : State :=
  { s with pulses := vmap (fun lane p => if inSpan s.configs[g] lane.val then .none else p) s.pulses }

/-- How many lanes of the group's span have a pulse in progress of a job. -/
def cutLanes (g : GroupId) (c : CtxId) (s : State) : Nat :=
  ((List.finRange 64).filter fun lane =>
    inSpan s.configs[g] lane.val && (pulseJob s.pulses[lane]).any fun x => decide (x.2 = c)).length

/-- Each cut lane counts in CLIPPED of its pulse's job; a job in ENDED counts nothing (R19, R82). -/
def countClips (g : GroupId) (s : State) : State :=
  { s with jobs := vmap (fun c j => j.map fun j =>
      if notEnded j then { j with clipped := satAdd j.clipped (cutLanes g c s) } else j) s.jobs }

/-- The cut at a delivered line event: counted (R82). -/
def cutCounted (g : GroupId) (s : State) : State := cutSpan g (countClips g s)

/-! ## The profile latch (R76) -/

/-- The latched copy is kept: same number and same generation as the profile stands now. -/
def latchKept (s : State) (g : GroupId) (p : ProfileId) : Bool :=
  match s.groups[g].latched with
  | none => false
  | some l => decide (l.number = p ∧ l.generation = s.profiles[p].generation)

/-- The group compares its latched profile and copies it anew if it differs. -/
def latchProfile (g : GroupId) (p : ProfileId) (s : State) : State :=
  if latchKept s g p then s
  else modGroup g (fun x => { x with
    latched := some { number := p, generation := s.profiles[p].generation, entries := s.profiles[p].entries } }) s

/-! ## Pulse formation (R80) -/

/-- Effective delay: DELAY + TRIM, raised to 1. -/
def effectiveDelay (delay : Short) (trim : BitVec 8) : Nat := (max 1 ((delay.toNat : Int) + trim.toInt)).toNat

/-- The entry a level selects. -/
def entryOf (entries : Vector ProfileEntry 16) (level : Level) : ProfileEntry := entries[level.toFin]

/-- The pulse formed for a lane at a line event, if one is. -/
def formedPulse (tick : Nat) (g : GroupId) (c : CtxId) (record : LaneRecord) (e : ProfileEntry) : Option Pulse :=
  if record.enable && decide (e.width ≠ 0) then
    some (.scheduled (tick + effectiveDelay e.delay record.trim)
      (tick + effectiveDelay e.delay record.trim + e.width.toNat) g c)
  else none

/-- The pulse a line gives a lane of the group's span, from the slot's level for that lane and the latched entries. -/
def lanePulse (s : State) (g : GroupId) (c : CtxId) (slot : SlotId) (entries : Vector ProfileEntry 16) (lane : LaneId) :
    Option Pulse :=
  if inSpan s.configs[g] lane.val then
    formedPulse s.clock.tick g c s.lanes[lane]
      (entryOf entries (s.slots[slot].levels.toList.getD (lane.val - s.configs[g].firstLane.toNat) 0))
  else none

/-- The entries of the group's latched copy. -/
def latchedEntries (s : State) (g : GroupId) : Vector ProfileEntry 16 :=
  match s.groups[g].latched with
  | none => Profile.reset.entries
  | some l => l.entries

/-- The line's pulses are formed. -/
def formPulses (g : GroupId) (c : CtxId) (slot : SlotId) (s : State) : State :=
  { s with pulses := vmap (fun lane p => (lanePulse s g c slot (latchedEntries s g) lane).getD p) s.pulses }

/-- The number of pulses formed for the line (R81). -/
def formedCount (g : GroupId) (c : CtxId) (slot : SlotId) (s : State) : Nat :=
  ((List.finRange 64).filter fun lane => (lanePulse s g c slot (latchedEntries s g) lane).isSome).length

/-! ## Firing a line (R10, R20, R32) -/

/-- A MARK is offered when LINES_FIRED is a multiple of MARK_EVERY (R20). -/
def markTest (c : CtxId) (s : State) : State :=
  match s.jobs[c] with
  | none => s
  | some j =>
    if j.markEvery ≠ 0 ∧ j.linesFired.toNat % j.markEvery.toNat = 0 then offerNotice c (.mark j.tag j.linesFired) s else s

/-- The line just fired was the last of a closed job: FINISHING if it formed a pulse, else the job ends (R10). -/
def lastLineTest (c : CtxId) (formed : Nat) (s : State) : State :=
  match s.jobs[c] with
  | none => s
  | some j =>
    if j.isOpen = false ∧ j.firePos = j.supplied then
      if formed = 0 then endJob c .ended s else setJobState c .finishing s
    else s

/-- The job fires the line at its fire position from a slot (R10): the slot becomes FIRING, the profile is latched, pulses are
formed, LINES_FIRED and the fire position grow, then the MARK and last-line rules. -/
def fireLine (g : GroupId) (c : CtxId) (j : Job) (slot : SlotId) (s : State) : State :=
  let s1 := latchProfile g j.profile (setSlot slot (.firing c (j.firePos % j.depth) j.firePos) s)
  let s2 := modJob c (fun j => { j with linesFired := satInc j.linesFired, firePos := j.firePos + 1 }) (formPulses g c slot s1)
  lastLineTest c (formedCount g c slot s1) (markTest c s2)

/-! ## Underrun (R11, R36 to R39) -/

/-- A closed job whose fire position has come to lines supplied by a skip ends (R11). -/
def skipEndTest (c : CtxId) (s : State) : State :=
  match s.jobs[c] with
  | none => s
  | some j => if j.isOpen = false ∧ j.firePos = j.supplied then endJob c .ended s else s

/-- The slot side and the fetch side of a skip: FILLING becomes STALE; otherwise the cursor moves past the line and the line is
settled (R37, R91, R102). -/
def skipSlot (c : CtxId) (line : Nat) (slot : Option SlotId) (s : State) : State :=
  match slot with
  | none => settleLine c line (modJob c (fun j => { j with cursor := max j.cursor (line + 1) }) s)
  | some i =>
    match s.slots[i].state with
    | .filling o k l => setSlot i (.stale o k l) s
    | .empty _ _ | .stale _ _ _ | .free | .ready _ _ _ | .firing _ _ _ | .discard =>
      settleLine c line (modJob c (fun j => { j with cursor := max j.cursor (line + 1) }) s)

/-- HELD_EVENTS of a job grows by one. -/
def chargeHeld (c : CtxId) (s : State) : State := modJob c (fun j => { j with heldEvents := satInc j.heldEvents }) s

/-- LINES_SKIPPED and the fire position grow by one. -/
def chargeSkip (c : CtxId) (s : State) : State :=
  modJob c (fun j => { j with linesSkipped := satInc j.linesSkipped, firePos := j.firePos + 1 }) s

/-- An underrun of a RUNNING job, by its POLICY. -/
def underrun (c : CtxId) (j : Job) (slot : Option SlotId) (s : State) : State :=
  match j.policy with
  | .skip =>
    if j.firePos < j.supplied then skipEndTest c (chargeSkip c (skipSlot c j.firePos slot s)) else chargeHeld c s
  | .hold => chargeHeld c s
  | .stop => endJob c .underrun s

/-- A RUNNING job at a delivered line event fires its line if the slot at its fire position is READY, else it is in underrun. -/
def runLine (g : GroupId) (c : CtxId) (j : Job) (s : State) : State :=
  match slotAt s c (j.firePos % j.depth) with
  | none => underrun c j none s
  | some i => if slotReady s.slots[i].state then fireLine g c j i s else underrun c j (some i) s

/-! ## Delivery to the job list (R10 to R15, R33, R62) -/

/-- The job at position 0 of a group. -/
def frontJob (s : State) (g : GroupId) : Option (CtxId × Job) :=
  match s.lists[g].head? with
  | none => none
  | some c => (s.jobs[c]).map fun j => (c, j)

/-- What a delivered event does to the job at position 0 that is RUNNING or FINISHING; its FIRING slot is released first (R33). -/
def actOnFront (g : GroupId) (s : State) : State :=
  match frontJob s g with
  | none => s
  | some (c, j) =>
    match j.state with
    | .running => runLine g c j (releaseFiring c s)
    | .finishing => endJob c .ended (releaseFiring c s)
    | .pending | .waiting | .primed | .armed | .ended _ => s

/-- The job at position 0 may start at this event (R12). -/
def mayStart (g : GroupId) (s : State) : Option (CtxId × Job) :=
  match frontJob s g with
  | none => none
  | some (c, j) =>
    if j.state = .armed ∧ listHas s g isFiringState = false ∧ s.groups[g].hold = .none then some (c, j) else none

/-- The start of firing (R12): the job becomes RUNNING and fires the line at its fire position. -/
def startFiring (g : GroupId) (c : CtxId) (j : Job) (s : State) : State :=
  runLine g c { j with state := .running } (setJobState c .running s)

/-- The counters of a group are changed. -/
def modCounters (g : GroupId) (f : GroupCounters → GroupCounters) (s : State) : State :=
  modGroup g (fun x => { x with counters := f x.counters }) s

/-- The event was idle: no job was RUNNING when it came and none started (R14, R63). -/
def countIdle (g : GroupId) (s : State) : State :=
  modCounters g (fun k => { k with idleEvents := satInc k.idleEvents }) s

/-- A line event is delivered to the job list, Line Store, Lane Driver and latch of its group. -/
def deliver (g : GroupId) (s : State) : State :=
  let t := actOnFront g (cutCounted g s)
  match mayStart g t with
  | some (c, j) => startFiring g c j t
  | none => if listHas s g isRunning then t else countIdle g t

/-! ## The line event (R61, R62, R64) -/

/-- The hold state of a group is set. -/
def setHold (g : GroupId) (h : HoldState) (s : State) : State :=
  modGroup g (fun x => { x with hold := h }) s

/-- A line event kept from the job list is counted (R62). -/
def countHeld (g : GroupId) (s : State) : State :=
  modCounters g (fun k => { k with heldEvents := satInc k.heldEvents }) s

/-- A group's line event within the group: counted, then delivered or kept by the hold state (R62). -/
def ownEvent (g : GroupId) (s : State) : State :=
  let t := modCounters g (fun k => { k with lineEvents := satInc k.lineEvents }) s
  match t.groups[g].hold with
  | .none => deliver g t
  | .pending => countHeld g (setHold g .held t)
  | .held => countHeld g t

/-! ## Accepted triggers (R56 to R60) -/

/-- One measurement of the interval monitor (R60). -/
def monitorAfter (interval : Nat) (m : IntervalMonitor) : IntervalMonitor :=
  let x : BitVec 24 := BitVec.ofNat 24 (min interval Config.maxInterval)
  { last := x
    min := if x.toNat < m.min.toNat then x else m.min
    max := if m.max.toNat < x.toNat then x else m.max
    saturated := m.saturated || decide (Config.maxInterval < interval) }

/-- The monitor at an accepted trigger: a measurement if a last accepted time is present. -/
def measured (tick : Nat) (x : GroupState) : IntervalMonitor :=
  match x.lastAccepted with
  | none => x.monitor
  | some t => monitorAfter (tick - t) x.monitor

/-- A trigger is accepted: counted, measured, remembered, and the countdown of DELAY starts (R56 to R58). -/
def acceptTrigger (g : GroupId) (s : State) : State :=
  modGroup g (fun x =>
    { x with
      counters := { x.counters with trigAccepted := satInc x.counters.trigAccepted }
      monitor := measured s.clock.tick x
      lastAccepted := some s.clock.tick
      clock := if s.configs[g].delay = 0 then x.clock else .delaying (s.clock.tick + s.configs[g].delay.toNat) }) s

/-- A trigger is dropped as busy. -/
def countBusy (g : GroupId) (s : State) : State :=
  modCounters g (fun k => { k with trigBusy := satInc k.trigBusy }) s

/-- A trigger is dropped as fast. -/
def countFast (g : GroupId) (s : State) : State :=
  modCounters g (fun k => { k with trigFast := satInc k.trigFast }) s

/-- A line event of a leader at one group (R58): a group that follows the leader directly takes it, drops it as busy, or, with
DELAY 0, takes it and has its own line event (`own`) at once. -/
def leaderEvent (own : GroupId → State → State) (leader : GroupId) (s : State) (f : GroupId) : State :=
  if followsDirect s.configs f leader then
    match s.groups[f].clock with
    | .waitLeader => if s.configs[f].delay = 0 then own f (acceptTrigger f s) else acceptTrigger f s
    | .delaying _ => countBusy f s
    | .stopped | .counting _ | .waitEdge => s
  else s

/-- A group's line event with all it reaches (R59, R62): the group itself, then each group in order as a follower. A chain has at
most four groups (R53), so four links are followed (assumption 11). -/
def lineEvent : Nat → GroupId → State → State
  | 0, _, s => s
  | n + 1, g, s => (List.finRange 4).foldl (leaderEvent (fun f t => lineEvent n f t) g) (ownEvent g s)

/-- A group produces a line event. -/
def produceLineEvent (g : GroupId) (s : State) : State := lineEvent 4 g s

/-- The initial state of a line clock for its configuration, started now (R54). -/
def initialClock (f : GroupFields) (tick : Nat) : LineClock :=
  if configured f then
    match byteSource f.source with
    | some .internal => .counting tick
    | some .external => .waitEdge
    | some .follow => .waitLeader
    | none => .stopped
  else .stopped

/-- The state a clock waits in after a countdown (R57, R58). -/
def waitClock (f : GroupFields) : LineClock :=
  match byteSource f.source with
  | some .follow => .waitLeader
  | some .internal | some .external | none => .waitEdge

/-- A line clock is set. -/
def setClock (g : GroupId) (k : LineClock) (s : State) : State :=
  modGroup g (fun x => { x with clock := k }) s

end Sys2Proof.Machine
end

