-- ==== Sys2Proof/Machine/CpOps.lean ====
section
/-! DEFINITION. Machine/CpOps.lean: the Command Processor's own operations: take decision, reservation, the end of a command, and
what each accepted command does to the block that owns the state. -/

namespace Sys2Proof.Machine

/-! ## Submission rings (R107 to R109) -/

/-- The Command Processor's part of the state is changed. -/
def modCp (f : CommandProcessor → CommandProcessor) (s : State) : State := { s with cp := f s.cp }

/-- The registers of one submission ring changed within the Command Processor. -/
def withRing (r : SubRing) (f : RingRegs → RingRegs) (cp : CommandProcessor) : CommandProcessor :=
  match r with
  | .priority => { cp with priority := f cp.priority }
  | .normal => { cp with normal := f cp.normal }

/-- A submission ring's registers are changed. -/
def modRing (r : SubRing) (f : RingRegs → RingRegs) (s : State) : State := modCp (withRing r f) s

/-- The Command Processor's state is set. -/
def setCp (st : CpState) (s : State) : State := modCp (fun x => { x with state := st }) s

/-- A command is in progress: RECORD or AUXILIARY (R110). -/
def commandInProgress (s : State) : Bool :=
  match s.cp.state with
  | .record _ _ => true
  | .auxiliary _ _ _ => true
  | .stopped | .reserving | .looking => false

/-- BASE and SIZE writes are taken: RUN is 0 and no command is in progress (R108, R147). -/
def ringsWritable (s : State) : Bool := !s.run && !commandInProgress s

/-- The ring holds records (R109). -/
def holdsRecords (r : RingRegs) : Bool := decide (r.size ≠ 0 ∧ r.producer ≠ r.consumer)

/-- PRODUCER is out of range (R111). -/
def producerBad (r : RingRegs) : Bool := decide (r.size ≠ 0 ∧ r.size.toNat ≤ r.producer.toNat)

/-- Arbitration (R112). -/
def chooseRing (cp : CommandProcessor) : Option SubRing :=
  if holdsRecords cp.priority then
    if holdsRecords cp.normal && decide (Config.maxPriorityRun ≤ cp.count) then some .normal else some .priority
  else if holdsRecords cp.normal then some .normal
  else none

/-- RUN is cleared and the Command Processor moves to STOPPED, keeping its reservation (R111, R113). -/
def stopTaking (s : State) : State := setCp .stopped { s with run := false }

/-- A ring index fault (R111). -/
def ringIndexFault (r : SubRing) (s : State) : State :=
  stopTaking (handFault kindRingIndex (subRingFault r) (ringRegs s.cp r).producer s)

/-- A ring read fault (R113). -/
def ringReadFault (r : SubRing) (s : State) : State :=
  stopTaking (handFault kindRingRead (subRingFault r) (ringRegs s.cp r).consumer s)

/-- Address of the record at CONSUMER: BASE + CONSUMER × 64 (R113), taken modulo 2 to the power 64 as a line read's address is (R92);
the spec states no modulo for a record read (DESIGN CHOICE, unsafe, assumption 25). -/
def recordAddress (r : RingRegs) : Addr := r.base + BitVec.ofNat 64 (r.consumer.toNat * 64)

/-- The record read is issued (R113). -/
def issueRecordRead (r : SubRing) (s : State) : State :=
  setCp (.record r (readExpiry s)) (emit (.memRead (recordAddress (ringRegs s.cp r)) 64) s)

/-- A take decision, made in LOOKING (R111). -/
def takeDecision (s : State) : State :=
  if s.cp.state = .looking then
    if producerBad s.cp.priority then ringIndexFault .priority s
    else if producerBad s.cp.normal then ringIndexFault .normal s
    else match chooseRing s.cp with
      | none => s
      | some r => issueRecordRead r s
  else s

/-- The Command Processor enters LOOKING, and so makes a take decision (R111). -/
def enterLooking (s : State) : State := takeDecision (setCp .looking s)

/-- The Command Processor in RESERVING takes its reservation while the placed records number fewer than 8 (R110, R152). -/
def takeReservation (s : State) : State :=
  if s.cp.state = .reserving ∧ s.holding.length < Config.holdingCapacity then
    enterLooking (modCp (fun x => { x with reserved := true }) s)
  else s

/-- RUN has become 1: a STOPPED Command Processor moves to LOOKING or RESERVING (R110). -/
def leaveStopped (s : State) : State :=
  if s.cp.state = .stopped then
    if s.cp.reserved then enterLooking s else setCp .reserving s
  else s

/-! ## The end of a command (R116) -/

/-- CONSUMER of the ring advances past the record (R116). -/
def passRecord (r : RingRegs) : RingRegs :=
  { r with consumer := BitVec.ofNat 16 ((r.consumer.toNat + 1) % r.size.toNat) }

/-- The arbitration count after a command of a ring (R112). -/
def nextCount (r : SubRing) (count : Nat) : Nat :=
  match r with
  | .priority => min Config.maxPriorityRun (count + 1)
  | .normal => 0

/-- Steps 3 and 4 of R116 within the Command Processor: CONSUMER and the arbitration count. -/
def consumed (r : SubRing) (cp : CommandProcessor) : CommandProcessor :=
  { withRing r passRecord cp with count := nextCount r cp.count }

/-- The Command Processor when a command has ended with its response: the reservation is used (R110, R116). -/
def answered (r : SubRing) (run : Bool) (cp : CommandProcessor) : CommandProcessor :=
  { consumed r cp with reserved := false, state := if run then .reserving else .stopped }

/-- A command ends with its response in the reserved entry (R116, R123). -/
def respond (r : SubRing) (cmdId : Short) (status : Status) (value : Word) (s : State) : State :=
  modCp (answered r s.run) (place (.response cmdId status value) s)

/-- A parked DRAIN_GROUP ends its record without a response and keeps the reservation (R116). -/
def endParked (r : SubRing) (s : State) : State :=
  let t := modCp (consumed r) s
  if t.run then enterLooking t else setCp .stopped t

/-- What happens when the record read in flight answers with data before its expiry; otherwise nothing (R113, R120). -/
def onRecord (f : SubRing → State → State) (s : State) : State :=
  match s.cp.state with
  | .record r expiry => if s.clock.now ≤ expiry then f r s else s
  | .stopped | .reserving | .looking | .auxiliary _ _ _ => s

/-- The table read of a command is issued, and the Command Processor moves to AUXILIARY (R114, R115). -/
def issueTableRead (r : SubRing) (address : Addr) (command : AuxCommand) (s : State) : State :=
  setCp (.auxiliary r (readExpiry s) command) (emit (.memRead address (auxLength command)) s)

/-! ## CONFIG_GROUP (R52, R127, R128) -/

/-- The job list of a group is not empty. -/
def listBusy (s : State) (g : GroupId) : Bool := decide (s.lists[g] ≠ [])

/-- The GROUP_BUSY check (R127). -/
def configBusy (s : State) (g : GroupId) (f : GroupFields) : Bool :=
  listBusy s g || ((List.finRange 4).any fun h => follows s.configs g h && listBusy s h) ||
    (decide (f.laneCount = 0) && (List.finRange 4).any fun h => decide (h ≠ g) && followsDirect s.configs h g)

/-- The LANE_CONFLICT check (R128). -/
def laneConflict (s : State) (g : GroupId) (f : GroupFields) : Bool :=
  (List.finRange 4).any fun h => decide (h ≠ g) && configured s.configs[h] && spansMeet f s.configs[h]

/-- The FOLLOW_LOOP check: the walk from LEADER reaches the target (R128). -/
def followLoop (s : State) (g : GroupId) (f : GroupFields) : Bool :=
  hasSource f .follow && match byteGroup f.leader with
    | some l => walkReaches s.configs g 4 l
    | none => false

/-- The GROUP_OFF check: the group named by LEADER is OFF (R128). -/
def leaderOff (s : State) (f : GroupFields) : Bool :=
  hasSource f .follow && match byteGroup f.leader with
    | some l => !configured s.configs[l]
    | none => false

/-- The status of a CONFIG_GROUP whose TARGET is in range: the first check that fails (R126 to R128). -/
def configGroupStatus (s : State) (g : GroupId) (f : GroupFields) : Status :=
  if groupFieldsOk g f = false then .badField
  else if configBusy s g f then .groupBusy
  else if f.laneCount ≠ 0 && laneConflict s g f then .laneConflict
  else if f.laneCount ≠ 0 && followLoop s g f then .followLoop
  else if f.laneCount ≠ 0 && leaderOff s f then .groupOff
  else .ok

/-- The group takes its new configuration (R52). -/
def applyConfigGroup (g : GroupId) (f : GroupFields) (s : State) : State :=
  { s with
    configs := vmod s.configs g fun _ => f
    groups := vmod s.groups g fun x => { GroupState.reset with clock := initialClock f s.clock.tick, waiters := x.waiters } }

/-! ## CONFIG_LANES and LOAD_PROFILE (R73, R75) -/

/-- A lane of the range lies in the span of a group whose job list is not empty (R130). -/
def lanesBusy (s : State) (firstLane count : Byte) : Bool :=
  (List.finRange 4).any fun g => listBusy s g &&
    (List.range 64).any fun lane =>
      decide (firstLane.toNat ≤ lane ∧ lane < firstLane.toNat + count.toNat) && inSpan s.configs[g] lane

/-- The status of a CONFIG_LANES before its table is read (R130). -/
def configLanesStatus (s : State) (firstLane count : Byte) (address : Addr) : Status :=
  if lanesFieldsOk firstLane count address = false then .badField
  else if lanesBusy s firstLane count then .groupBusy
  else .ok

/-- The records of a range of lanes are replaced (R73). -/
def applyLanes (firstLane : Byte) (records : List LaneRecord) (s : State) : State :=
  { s with lanes := vmap (fun lane r =>
      if firstLane.toNat ≤ lane.val then records.getD (lane.val - firstLane.toNat) r else r) s.lanes }

/-- A profile load is published (R75). -/
def publish (p : ProfileId) (entries : Vector ProfileEntry 16) (s : State) : State :=
  { s with profiles := vmod s.profiles p fun x => { entries := entries, generation := x.generation + 1 } }

/-! ## Jobs (R2, R6, R16 to R18, R90) -/

/-- The status of a START_JOB whose record checks have passed (R134 checks 2 to 5). -/
def startJobStatus (s : State) (tag : Word) (p : JobParams) : Status :=
  if configured s.configs[p.group] = false then .groupOff
  else if (findTag s tag).isSome then .tagInUse
  else if (freeContext s).isNone then .noContext
  else if Config.listCapacity ≤ s.lists[p.group].length then .listFull
  else .ok

/-- The context as START_JOB fills it (R2). -/
def newJob (tag : Word) (p : JobParams) (extents : List Extent) : Job :=
  { tag := tag, group := p.group, profile := p.profile, policy := p.policy, depth := p.depth, armLevel := p.armLevel,
    markEvery := p.markEvery, isOpen := p.isOpen, extents := numberExtents 0 extents, retired := 0,
    supplied := totalLines extents, cursor := 0, firePos := 0, linesFired := 0, linesSkipped := 0, heldEvents := 0, clipped := 0,
    noticesLost := 0, state := .pending }

/-- A free context is filled with a new job. -/
def fillContext (c : CtxId) (j : Job) (s : State) : State := { s with jobs := s.jobs.set c (some j) }

/-- A job joins a group's list at the back (R5). -/
def joinList (c : CtxId) (g : GroupId) (s : State) : State := { s with lists := vmod s.lists g fun l => l ++ [c] }

/-- A job is created in a context: it joins the back of its group's list, and at position 0 or 1 the slot wait list, where the
grant rule is considered (R2, R6, R43). -/
def createJob (c : CtxId) (tag : Word) (p : JobParams) (extents : List Extent) (s : State) : State :=
  if s.lists[p.group].length < 2 then grant (joinWait c (joinList c p.group (fillContext c (newJob tag p extents) s)))
  else joinList c p.group (fillContext c (newJob tag p extents) s)

/-- A command of a job is applied and answered, or refused, by the state of the context that carries TAG (R3): NOT_FOUND,
JOB_ENDED, or what the command does with a job that is not ENDED. -/
def withJob (r : SubRing) (cmdId : Short) (tag : Word) (f : CtxId → Job → State → State) (s : State) : State :=
  match findTag s tag with
  | none => respond r cmdId .notFound 0 s
  | some c =>
    match s.jobs[c] with
    | none => respond r cmdId .notFound 0 s
    | some j => if notEnded j then f c j s else respond r cmdId .jobEnded 0 s

/-- The extents join the back of the list, and lines supplied grows (R90). -/
def applyAppend (c : CtxId) (extents : List Extent) (s : State) : State :=
  armTest c (modJob c (fun j =>
    { j with extents := j.extents ++ numberExtents j.supplied extents, supplied := j.supplied + totalLines extents }) s)

/-- A job is closed (R16). -/
def applyClose (c : CtxId) (j : Job) (s : State) : State :=
  let t := modJob c (fun j => { j with isOpen := false }) s
  match j.state with
  | .pending | .waiting | .primed => if j.firePos = j.supplied then endJob c .ended t else t
  | .running =>
    if j.firePos = j.supplied then
      if outstanding s j.group = 0 then endJob c .ended t else setJobState c .finishing t
    else t
  | .armed | .finishing | .ended _ => t

/-- Pulses of a RUNNING or FINISHING job are cut without counting (R85). -/
def cutUncounted (j : Job) (s : State) : State := if isFiringState j.state then cutSpan j.group s else s

/-- A job is aborted (R17). -/
def applyAbort (c : CtxId) (j : Job) (s : State) : State := endJob c .aborted (cutUncounted j s)

/-- A fetch fault is reported for the owner of a slot; one for an ended job is ignored (R18). -/
def fetchFault (c : CtxId) (line : Nat) (s : State) : State :=
  match s.jobs[c] with
  | none => grant s
  | some j => if notEnded j then endJob c (.fetchFault line) (cutUncounted j s) else grant s

/-! ## Drain waiters and reports (R67, R70) -/

/-- A DRAIN_GROUP is parked at the back of the waiters (R67). -/
def parkWaiter (g : GroupId) (cmdId : Short) (s : State) : State :=
  modGroup g (fun x => { x with waiters := x.waiters ++ [{ cmdId := cmdId, state := .parked }] }) s

/-- TAG of the job at a position of a list, 0 beyond the list (R172). -/
def listTag (s : State) (g : GroupId) (position : Nat) : Word :=
  match s.lists[g][position]? with
  | none => 0
  | some c => match s.jobs[c] with
    | none => 0
    | some j => j.tag

/-- Bytes 3 to 5 of a report record: the latched profile (10.4). -/
def latchedBytes (l : Option Latched) : List Byte :=
  match l with
  | none => [0, 0, 0]
  | some x => BitVec.ofNat 8 (0x80 + x.number.val) :: shortBytes x.generation

/-- The 64 bytes of a group's report record (10.4, R172). -/
def reportBytes (s : State) (g : GroupId) : List Byte :=
  let x := s.groups[g]
  [runState s g, x.hold.code, BitVec.ofNat 8 s.lists[g].length] ++ latchedBytes x.latched
    ++ [flagByte x.monitor.saturated, BitVec.ofNat 8 g.val]
    ++ wordBytes (listTag s g 0) ++ wordBytes (listTag s g 1) ++ wordBytes (listTag s g 2) ++ wordBytes (listTag s g 3)
    ++ wordBytes x.counters.lineEvents ++ wordBytes x.counters.idleEvents ++ wordBytes x.counters.heldEvents
    ++ wordBytes x.counters.trigAccepted ++ wordBytes x.counters.trigBusy ++ wordBytes x.counters.trigFast
    ++ wordBytes (x.monitor.last.setWidth 32) ++ wordBytes (x.monitor.min.setWidth 32) ++ wordBytes (x.monitor.max.setWidth 32)
    ++ [0, 0, 0, 0]

/-- The counters and the interval monitor are reset; the last accepted time stays (R60, R70). -/
def clearCounters (g : GroupId) (s : State) : State :=
  modGroup g (fun x => { x with counters := GroupCounters.reset, monitor := IntervalMonitor.reset }) s

/-! ## The table read's answer (R115, R122) -/

/-- The table of a command in progress has come whole: its contents are checked, and the command is applied or refused. -/
def applyTable (r : SubRing) (command : AuxCommand) (table : List Byte) (s : State) : State :=
  match command with
  | .configLanes id firstLane count =>
    match laneTable table count.toNat with
    | none => respond r id .badField 0 s
    | some records => respond r id .ok 0 (applyLanes firstLane records s)
  | .loadProfile id p =>
    match profileTable table with
    | none => respond r id .badField 0 s
    | some entries => respond r id .ok 0 (publish p entries s)
  | .startJob id tag p =>
    match extentTable (lineSize s.configs[p.group]) table p.extentCount with
    | none => respond r id .badField 0 s
    | some extents =>
      match freeContext s with
      | none => respond r id .noContext 0 s
      | some c => respond r id .ok (BitVec.ofNat 32 c.val) (createJob c tag p extents s)
  | .appendLines id tag g supplied extentCount =>
    match extentTable (lineSize s.configs[g]) table extentCount with
    | none => respond r id .badField 0 s
    | some extents =>
      if Config.maxSupplied < supplied + totalLines extents then respond r id .badField 0 s
      else match findTag s tag with
        | none => respond r id .jobEnded 0 s
        | some c =>
          match s.jobs[c] with
          | none => respond r id .jobEnded 0 s
          | some j => if notEnded j then respond r id .ok 0 (applyAppend c extents s) else respond r id .jobEnded 0 s

/-! ## Completion records (10.3, R172) -/

/-- Byte 0 of a completion record: KIND and LAP. -/
def kindByte (kind : Nat) (lap : Bool) : Byte := BitVec.ofNat 8 (kind + bit lap * 128)

/-- FAULT_LINE of an end status, 0 when absent. -/
def faultLineOf : EndStatus → Nat
  | .fetchFault n => n
  | .ended | .aborted | .underrun => 0

/-- Byte 3 of a JOB_END: FAULT_LINE present. -/
def faultLinePresent : EndStatus → Bool
  | .fetchFault _ => true
  | .ended | .aborted | .underrun => false

/-- The 32 bytes of a completion record with its LAP flag. -/
def compBytes (lap : Bool) : CompRecord → List Byte
  | .response cmdId status value =>
    [kindByte 0 lap, status.code] ++ shortBytes cmdId ++ wordBytes value ++ List.replicate 24 0
  | .jobEnd tag c st fired skipped held clipped lost =>
    [kindByte 1 lap, st.code, BitVec.ofNat 8 c.val, flagByte (faultLinePresent st)] ++ wordBytes tag
      ++ wordBytes fired ++ wordBytes skipped ++ wordBytes held ++ wordBytes clipped ++ wordBytes lost
      ++ wordBytes (BitVec.ofNat 32 (faultLineOf st))
  | .mark tag fired => [kindByte 2 lap, 0, 0, 0] ++ wordBytes tag ++ wordBytes fired ++ List.replicate 20 0
  | .extentDone tag ordinal =>
    [kindByte 3 lap, 0, 0, 0] ++ wordBytes tag ++ wordBytes (BitVec.ofNat 32 ordinal) ++ List.replicate 20 0

end Sys2Proof.Machine
end

