-- ==== Sys2Proof/Machine/Resets.lean ====
section
/-! DEFINITION. Machine/Resets.lean: DEVICE_RESET, DEVICE_RESET_COMPLETE, ENGINE_RESET. -/

namespace Sys2Proof.Machine

/-- Every configured group's clock starts in its initial state (R54). -/
def startClocks (s : State) : State :=
  { s with groups := vmap (fun g x => { x with clock := initialClock s.configs[g] s.clock.tick }) s.groups }

/-- The RESETTING period ends: the held divider takes effect and every configured group's clock starts (R168). -/
def endResetting (s : State) : State := startClocks (latchDivider { s with resetting := false })

/-- A tracker entry is busy. -/
def trackerBusy (s : State) : Bool := s.tracker.toList.any Option.isSome

/-- A tracker entry is set. -/
def setEntry (e : EntryId) (r : Option LineRead) (s : State) : State := { s with tracker := s.tracker.set e r }

/-- A tracker entry becomes free; when it was the last one of a RESETTING period, the period ends (R93, R106, R168). -/
def freeEntry (e : EntryId) (s : State) : State :=
  if s.resetting && !trackerBusy (setEntry e none s) then endResetting (setEntry e none s) else setEntry e none s

/-- The Command Processor after an engine reset (R119): ring bases and sizes kept. -/
def engineResetCp (cp : CommandProcessor) (inProgress : Bool) : CommandProcessor :=
  { state := .stopped, reserved := false, priority := { cp.priority with producer := 0, consumer := 0 },
    normal := { cp.normal with producer := 0, consumer := 0 }, count := 0, voidReads := cp.voidReads + bit inProgress }

/-- The completion ring after an engine reset (R147, R149): BASE and SIZE kept, posting resumed. -/
def engineResetComp (c : CompletionRing) : CompletionRing :=
  { c with producer := 0, consumer := 0, lap := true, stopped := false, times := [] }

/-- Every block's part of an engine reset (R167), RESETTING still to be settled. -/
def emptied (s : State) : State :=
  { s with
    run := false
    fault := FaultReg.reset
    jobs := Vector.replicate 16 none
    lists := Vector.replicate 4 []
    endQueue := []
    slots := vmap (fun _ x => { x with state := .free }) s.slots
    slotWait := []
    tracker := vmap (fun _ e => e.map fun r => { r with isVoid := true }) s.tracker
    lastServed := 3
    groups := Vector.replicate 4 GroupState.reset
    eligible := []
    pulses := Vector.replicate 64 .none
    cp := engineResetCp s.cp (commandInProgress s)
    comp := engineResetComp s.comp
    holding := []
    condition := false }

/-- An engine reset is taken (R167): RESETTING lasts while a tracker entry is busy, and else ends at once (R168). -/
def takeEngineReset (s : State) : State :=
  if trackerBusy s then { emptied s with resetting := true } else endResetting (emptied s)

/-- DEVICE_RESET (R169): every block holds its reset values and every lane is driven low; the host port takes nothing until
completion. -/
def execDeviceReset (s : State) : Result :=
  .next { State.reset with
    clock := s.clock
    divider := s.divider
    inReset := some s.clock.now
    link := s.link
    pending := s.pending }

/-- DEVICE_RESET_COMPLETE (R169): no sooner than 10 µs after RESET_N fell; the tick divider in effect becomes 1. -/
def execDeviceResetComplete (s : State) : Result :=
  match s.inReset with
  | none => .next s
  | some fell => .next (latchDivider { toMoment (fell + periods s Config.deviceResetMicros) s with inReset := none })

/-- ENGINE_RESET (R162, R167): a written 1 starts an engine reset unless RESETTING is set; a written 0 has no effect. -/
def execEngineReset (value : Bool) (s : State) : Result :=
  .next (hostWrite (fun t => if value && !t.resetting then takeEngineReset t else t) s)

end Sys2Proof.Machine
end

