-- ==== Sys2Proof/Machine/Commands.lean ====
section
/-! DEFINITION. Machine/Commands.lean: the record of each command answers with data (R114): NOP, UNKNOWN_OPCODE, CONFIG_GROUP,
CONFIG_LANES, LOAD_PROFILE, START_JOB, APPEND_LINES, CLOSE_JOB, ABORT_JOB, HOLD_GROUP, RELEASE_GROUP, DRAIN_GROUP, REPORT_GROUP. -/

namespace Sys2Proof.Machine

/-- NOP (R125). -/
def execNop (cmdId : Short) (s : State) : Result := .next (onRecord (fun r t => respond r cmdId .ok 0 t) s)

/-- UNKNOWN_OPCODE (R114): BAD_FIELD, with no other field read for meaning. -/
def execUnknownOpcode (opcode : Byte) (cmdId : Short) (s : State) : Result :=
  if definedOpcode opcode then .refused .illFormed else .next (onRecord (fun r t => respond r cmdId .badField 0 t) s)

/-- CONFIG_GROUP taken (R126 to R129). -/
def configGroupTaken (cmdId : Short) (target : Word) (f : GroupFields) (r : SubRing) (s : State) : State :=
  match targetGroup target with
  | none => respond r cmdId .badField 0 s
  | some g =>
    if configGroupStatus s g f = .ok then respond r cmdId .ok 0 (applyConfigGroup g f s)
    else respond r cmdId (configGroupStatus s g f) 0 s

/-- CONFIG_GROUP (R126 to R129). -/
def execConfigGroup (cmdId : Short) (target : Word) (f : GroupFields) (s : State) : Result :=
  .next (onRecord (configGroupTaken cmdId target f) s)

/-- CONFIG_LANES taken (R130). -/
def configLanesTaken (cmdId : Short) (firstLane count : Byte) (address : Addr) (r : SubRing) (s : State) : State :=
  if configLanesStatus s firstLane count address = .ok then issueTableRead r address (.configLanes cmdId firstLane count) s
  else respond r cmdId (configLanesStatus s firstLane count address) 0 s

/-- CONFIG_LANES (R130). -/
def execConfigLanes (cmdId : Short) (firstLane count : Byte) (address : Addr) (s : State) : Result :=
  .next (onRecord (configLanesTaken cmdId firstLane count address) s)

/-- LOAD_PROFILE taken (R132). -/
def loadProfileTaken (cmdId : Short) (profile : Byte) (address : Addr) (r : SubRing) (s : State) : State :=
  match byteProfile profile with
  | none => respond r cmdId .badField 0 s
  | some p =>
    if aligned4 address then issueTableRead r address (.loadProfile cmdId p) s else respond r cmdId .badField 0 s

/-- LOAD_PROFILE (R132). -/
def execLoadProfile (cmdId : Short) (profile : Byte) (address : Addr) (s : State) : Result :=
  .next (onRecord (loadProfileTaken cmdId profile address) s)

/-- A START_JOB that names no table creates its job at the answer of its record read (R134). -/
def startAtOnce (cmdId : Short) (tag : Word) (p : JobParams) (r : SubRing) (s : State) : State :=
  match freeContext s with
  | none => respond r cmdId .noContext 0 s
  | some c => respond r cmdId .ok (BitVec.ofNat 32 c.val) (createJob c tag p [] s)

/-- START_JOB taken (R134). -/
def startJobTaken (cmdId : Short) (tag : Word) (f : StartFields) (r : SubRing) (s : State) : State :=
  match jobParams f with
  | none => respond r cmdId .badField 0 s
  | some p =>
    if startJobStatus s tag p = .ok then
      if p.extentCount = 0 then startAtOnce cmdId tag p r s
      else issueTableRead r f.listAddress (.startJob cmdId tag p) s
    else respond r cmdId (startJobStatus s tag p) 0 s

/-- START_JOB (R134). -/
def execStartJob (cmdId : Short) (tag : Word) (f : StartFields) (s : State) : Result :=
  .next (onRecord (startJobTaken cmdId tag f) s)

/-- APPEND_LINES against a job that is not ENDED (R137 checks 4 and 5). -/
def appendToJob (cmdId : Short) (tag : Word) (extentCount : Byte) (listAddress : Addr) (r : SubRing) (_c : CtxId) (j : Job)
    (s : State) : State :=
  if j.isOpen = false then respond r cmdId .jobClosed 0 s
  else if Config.extentCapacity < j.extents.length + extentCount.toNat then respond r cmdId .extentsFull 0 s
  else issueTableRead r listAddress (.appendLines cmdId tag j.group j.supplied extentCount.toNat) s

/-- APPEND_LINES taken (R137). -/
def appendLinesTaken (cmdId : Short) (tag : Word) (extentCount : Byte) (listAddress : Addr) (r : SubRing) (s : State) : State :=
  if appendFieldsOk extentCount listAddress then withJob r cmdId tag (appendToJob cmdId tag extentCount listAddress r) s
  else respond r cmdId .badField 0 s

/-- APPEND_LINES (R137). -/
def execAppendLines (cmdId : Short) (tag : Word) (extentCount : Byte) (listAddress : Addr) (s : State) : Result :=
  .next (onRecord (appendLinesTaken cmdId tag extentCount listAddress) s)

/-- CLOSE_JOB against a job that is not ENDED (R139). -/
def closeOpenJob (cmdId : Short) (r : SubRing) (c : CtxId) (j : Job) (s : State) : State :=
  if j.isOpen = false then respond r cmdId .jobClosed 0 s else respond r cmdId .ok 0 (applyClose c j s)

/-- CLOSE_JOB (R139). -/
def execCloseJob (cmdId : Short) (tag : Word) (s : State) : Result :=
  .next (onRecord (fun r => withJob r cmdId tag (closeOpenJob cmdId r)) s)

/-- ABORT_JOB (R141). -/
def execAbortJob (cmdId : Short) (tag : Word) (s : State) : Result :=
  .next (onRecord (fun r => withJob r cmdId tag fun c j t => respond r cmdId .ok 0 (applyAbort c j t)) s)

/-- A hold command on a group: BAD_FIELD, GROUP_OFF, or the hold state that follows (R143, R144). -/
def holdTaken (cmdId : Short) (target : Word) (next : HoldState → HoldState) (r : SubRing) (s : State) : State :=
  match targetGroup target with
  | none => respond r cmdId .badField 0 s
  | some g =>
    if configured s.configs[g] then respond r cmdId .ok 0 (setHold g (next s.groups[g].hold) s)
    else respond r cmdId .groupOff 0 s

/-- The hold state after a HOLD_GROUP (R143). -/
def afterHold : HoldState → HoldState
  | .none => .pending
  | .pending => .pending
  | .held => .held

/-- The hold state after a RELEASE_GROUP (R144). -/
def afterRelease : HoldState → HoldState
  | .none => .none
  | .pending => .none
  | .held => .none

/-- HOLD_GROUP (R143). -/
def execHoldGroup (cmdId : Short) (target : Word) (s : State) : Result :=
  .next (onRecord (holdTaken cmdId target afterHold) s)

/-- RELEASE_GROUP (R144). -/
def execReleaseGroup (cmdId : Short) (target : Word) (s : State) : Result :=
  .next (onRecord (holdTaken cmdId target afterRelease) s)

/-- DRAIN_GROUP taken (R67, R145). -/
def drainTaken (cmdId : Short) (target : Word) (r : SubRing) (s : State) : State :=
  match targetGroup target with
  | none => respond r cmdId .badField 0 s
  | some g =>
    if s.lists[g] = [] then respond r cmdId .ok 0 s
    else if s.groups[g].waiters.length < Config.waiterCapacity then endParked r (parkWaiter g cmdId s)
    else respond r cmdId .waitLimit 0 s

/-- DRAIN_GROUP (R145). -/
def execDrainGroup (cmdId : Short) (target : Word) (s : State) : Result := .next (onRecord (drainTaken cmdId target) s)

/-- REPORT_GROUP taken (R146): the write, then the clear, then the response. -/
def reportTaken (cmdId : Short) (target : Word) (clear : Bool) (address : Addr) (r : SubRing) (s : State) : State :=
  match targetGroup target with
  | none => respond r cmdId .badField 0 s
  | some g =>
    if aligned4 address then
      let t := emit (.memWrite address (reportBytes s g)) s
      respond r cmdId .ok 0 (if clear then clearCounters g t else t)
    else respond r cmdId .badField 0 s

/-- REPORT_GROUP (R146). -/
def execReportGroup (cmdId : Short) (target : Word) (clear : Bool) (address : Addr) (s : State) : Result :=
  .next (onRecord (reportTaken cmdId target clear address) s)

end Sys2Proof.Machine
end

