-- ==== Sys2Proof/Machine/Completions.lean ====
section
/-! DEFINITION. Machine/Completions.lean: JOB_END_PLACEMENT, DRAIN_RESPONSE, COMPLETION_WRITE, AGE_EXPIRY. -/

namespace Sys2Proof.Machine

/-- JOB_END_PLACEMENT (R21). -/
def execJobEndPlacement (s : State) : Result := .next (placeJobEnd s)

/-- DRAIN_RESPONSE (R68). -/
def execDrainResponse (s : State) : Result := .next (placeDrain s)

/-- A record may be written to the ring (R148). -/
def mayPost (s : State) : Bool :=
  Config.validCompletionSize s.comp.size && !ringFull s.comp && !s.comp.stopped && !s.inReset.isSome

/-- The ring after a write: PRODUCER, LAP flag, write time (R148, R149). -/
def posted (c : CompletionRing) (now : Nat) : CompletionRing :=
  { c with
    producer := BitVec.ofNat 16 ((c.producer.toNat + 1) % c.size.toNat)
    lap := if (c.producer.toNat + 1) % c.size.toNat = 0 then !c.lap else c.lap
    times := c.times ++ [now] }

/-- Address of the entry at PRODUCER: BASE + PRODUCER × 32 (R147), taken modulo 2 to the power 64 as a line read's address is (R92);
the spec states no modulo for a completion entry (DESIGN CHOICE, unsafe, assumption 25). -/
def entryAddress (c : CompletionRing) : Addr := c.base + BitVec.ofNat 64 (c.producer.toNat * 32)

/-- The ring write of a JOB_END frees the job's context (R22). -/
def freeJob (r : CompRecord) (s : State) : State :=
  match r with
  | .jobEnd _ c _ _ _ _ _ _ => { s with jobs := s.jobs.set c none }
  | .response _ _ _ | .mark _ _ | .extentDone _ _ => s

/-- The entry a ring write has freed is given to the first waiting claimant (R154). -/
def giveEntry (s : State) : State :=
  if s.endQueue ≠ [] ∨ s.eligible ≠ [] then settleOffers Config.holdingCapacity s else takeReservation s

/-- Steps 1 to 3 of a ring write, and the write time of step 4 (R148). -/
def postRecord (r : CompRecord) (rest : List CompRecord) (s : State) : State :=
  { emit (.memWrite (entryAddress s.comp) (compBytes s.comp.lap r)) s with
    holding := rest, comp := posted s.comp s.clock.now }

/-- One ring write, with its six steps (R148). -/
def writeRecord (r : CompRecord) (rest : List CompRecord) (s : State) : State :=
  giveEntry (freeJob r (evalInterrupt (postRecord r rest s)))

/-- COMPLETION_WRITE (R148). -/
def execCompletionWrite (s : State) : Result :=
  .next (match s.holding with
    | [] => s
    | r :: rest => if mayPost s then writeRecord r rest s else s)

/-- AGE_EXPIRY (R158): the oldest unreleased entry has waited AGE µs; void if there is none or AGE is 0. -/
def execAgeExpiry (s : State) : Result :=
  .next (match s.comp.times with
    | [] => s
    | t :: _ =>
      if s.intMod.age = 0 then s else evalInterrupt (toMoment (t + periods s s.intMod.age.toNat) s))

end Sys2Proof.Machine
end

