-- ==== Sys2Proof/Machine/LineClocks.lean ====
section
/-! DEFINITION. Machine/LineClocks.lean: TRIGGER, PERIOD_END, COUNTDOWN_EXPIRY, PULSE_START, PULSE_END. -/

namespace Sys2Proof.Machine

/-- The trigger comes too soon after the last accepted one (R56). -/
def tooFast (s : State) (g : GroupId) : Bool :=
  match s.groups[g].lastAccepted with
  | none => false
  | some t => decide (s.configs[g].minInterval ≠ 0 ∧ s.clock.tick - t < s.configs[g].minInterval.toNat)

/-- A trigger of an EXTERNAL group is accepted or dropped (R56, R57). -/
def seeTrigger (g : GroupId) (s : State) : State :=
  match s.groups[g].clock with
  | .delaying _ => countBusy g s
  | .waitEdge =>
    if tooFast s g then countFast g s
    else if s.configs[g].delay = 0 then produceLineEvent g (acceptTrigger g s)
    else acceptTrigger g s
  | .stopped | .counting _ | .waitLeader => s

/-- TRIGGER (R56): an edge of another polarity, or on the input of a group that is OFF or not EXTERNAL, has no effect. -/
def execTrigger (g : GroupId) (edge : Edge) (tick : Nat) (s : State) : Result :=
  let t := toTick tick s
  .next (if hasSource t.configs[g] .external && decide (byteEdge t.configs[g].edge = some edge) then seeTrigger g t else t)

/-- PERIOD_END (R55): the next period begins at the end of this one. -/
def execPeriodEnd (g : GroupId) (s : State) : Result :=
  .next (match s.groups[g].clock with
    | .counting start =>
      let due := start + s.configs[g].period.toNat
      produceLineEvent g (setClock g (.counting due) (toTick due s))
    | .stopped | .waitEdge | .waitLeader | .delaying _ => s)

/-- COUNTDOWN_EXPIRY (R57, R58): the clock returns to waiting, and the group produces its line event. -/
def execCountdownExpiry (g : GroupId) (s : State) : Result :=
  .next (match s.groups[g].clock with
    | .delaying due => produceLineEvent g (setClock g (waitClock s.configs[g]) (toTick due s))
    | .stopped | .counting _ | .waitEdge | .waitLeader => s)

/-- A lane's pulse record is set. -/
def setPulse (lane : LaneId) (p : Pulse) (s : State) : State := { s with pulses := s.pulses.set lane p }

/-- PULSE_START (R79): the pulse becomes ACTIVE at its start tick. -/
def execPulseStart (lane : LaneId) (s : State) : Result :=
  .next (match s.pulses[lane] with
    | .scheduled a b g c => setPulse lane (.active a b g c) (toTick a s)
    | .none | .active _ _ _ _ => s)

/-- The pulse end is reported when no pulse of the group is left: a FINISHING job ends (R13, R81). -/
def reportPulseEnd (g : GroupId) (c : CtxId) (s : State) : State :=
  if outstanding s g = 0 ∧ jobStateOf s c = some .finishing then endJob c .ended s else s

/-- PULSE_END (R79, R81): the pulse becomes NONE at its end tick. -/
def execPulseEnd (lane : LaneId) (s : State) : Result :=
  .next (match s.pulses[lane] with
    | .active _ b g c => reportPulseEnd g c (setPulse lane .none (toTick b s))
    | .none | .scheduled _ _ _ _ => s)

end Sys2Proof.Machine
end

