-- ==== Sys2Proof/Machine/LineFetch.lean ====
section
/-! DEFINITION. Machine/LineFetch.lean: SLOT_GRANT, FETCH_ISSUE, FETCH_DATA_ANSWER, FETCH_ERROR_ANSWER, FETCH_EXPIRY,
LATE_ANSWER. -/

namespace Sys2Proof.Machine

/-- SLOT_GRANT (R43): the grant rule is considered. -/
def execSlotGrant (s : State) : Result := .next (grant s)

/-! ## Choosing the next read (R28, R91, R92, R95 to R97) -/

/-- The job is in a state in which it holds a ring and may fetch (R28). -/
def fetchingState (st : JobState) : Bool :=
  decide (st = .primed ∨ st = .armed ∨ st = .running ∨ st = .finishing)

/-- The slot the next read of a job would fill, if the Line Store offers the job (R28). -/
def offeredSlot (s : State) (c : CtxId) : Option SlotId :=
  match s.jobs[c] with
  | none => none
  | some j =>
    if fetchingState j.state = true ∧ j.cursor < j.supplied ∧ j.cursor < j.firePos + j.depth then
      match slotAt s c (j.cursor % j.depth) with
      | none => none
      | some i => if s.slots[i].state = .empty c (j.cursor % j.depth) then some i else none
    else none

/-- The job is offered and is in the class: the first class is RUNNING and FINISHING, the second PRIMED and ARMED (R95). -/
def offeredInClass (s : State) (first : Bool) (c : CtxId) : Bool :=
  (offeredSlot s c).isSome && (jobStateOf s c).any fun st => decide (isFiringState st = first)

/-- The groups from the one after the last-served group on, wrapping (R95). -/
def groupsAfter (last : GroupId) : List GroupId := [last + 1, last + 2, last + 3, last + 4]

/-- The job of a class that is served: by group, then by position (R95). -/
def chooseInClass (s : State) (first : Bool) : Option CtxId :=
  (groupsAfter s.lastServed).findSome? fun g => s.lists[g].find? (offeredInClass s first)

/-- The job an issue decision serves (R95). -/
def chooseJob (s : State) : Option CtxId := (chooseInClass s true).or (chooseInClass s false)

/-- The lowest-numbered free tracker entry (R93). -/
def freeTracker (s : State) : Option EntryId := (List.finRange 4).find? fun e => s.tracker[e].isNone

/-- Address of a job line in its extent, modulo 2 to the power 64 (R92). -/
def lineAddress (j : Job) (n : Nat) : Addr :=
  match j.extents.find? (holdsLine n) with
  | none => 0
  | some e => e.base + BitVec.ofNat 64 ((n - e.firstLine) * e.stride.toNat)

/-- The read a tracker entry carries from an issue (R97). -/
def lineRead (s : State) (i : SlotId) (line : Nat) : LineRead :=
  { slot := i, line := line, expiry := readExpiry s, isVoid := false }

/-- The last-served group is set (R95). -/
def setLastServed (g : GroupId) (s : State) : State := { s with lastServed := g }

/-- A read is issued for the line at a job's cursor (R97). -/
def issueLineRead (e : EntryId) (c : CtxId) (j : Job) (i : SlotId) (s : State) : State :=
  modJob c (fun j => { j with cursor := j.cursor + 1 })
    (setLastServed j.group (setEntry e (some (lineRead s i j.cursor))
      (setSlot i (.filling c (j.cursor % j.depth) j.cursor)
        (emit (.memRead (lineAddress j j.cursor) (lineSize s.configs[j.group])) s))))

/-- An issue decision (R96, R97). -/
def issueDecision (s : State) : State :=
  match freeTracker s, chooseJob s with
  | some e, some c =>
    match s.jobs[c], offeredSlot s c with
    | some j, some i => issueLineRead e c j i s
    | _, _ => s
  | _, _ => s

/-- FETCH_ISSUE (R96, R97). -/
def execFetchIssue (s : State) : Result := .next (issueDecision s)

/-! ## Answers and expiry (R29 to R31, R98 to R101) -/

/-- Level k of a line's bytes: two levels to a byte, the lower-numbered lane in the low half (R30). -/
def levelAt (data : List Byte) (k : Nat) : Level :=
  if k % 2 = 0 then (byteAt data (k / 2)).extractLsb' 0 4 else (byteAt data (k / 2)).extractLsb' 4 4

/-- The levels of a slot after a data answer of so many bytes; levels beyond them keep what they held (R30). -/
def writtenLevels (data : List Byte) (old : Vector Level 64) : Vector Level 64 :=
  vmap (fun k x => if k.val < 2 * data.length then levelAt data k.val else x) old

/-- A slot's state is changed and the bytes of a line are written into its levels. -/
def writeSlot (i : SlotId) (st : SlotState) (data : List Byte) (s : State) : State :=
  { s with slots := vmod s.slots i fun x => { state := st, levels := writtenLevels data x.levels } }

/-- A FILLING slot takes its line and becomes READY; the line is settled and a PRIMED owner tested for arming (R29, R98). -/
def fillSlot (i : SlotId) (c : CtxId) (index line : Nat) (data : List Byte) (s : State) : State :=
  armTest c (settleLine c line (writeSlot i (.ready c index line) data s))

/-- Line size of the job in a context (R92). -/
def jobLineSize (s : State) (c : CtxId) : Nat :=
  match s.jobs[c] with
  | none => 0
  | some j => lineSize s.configs[j.group]

/-- A data answer that is taken (R98). -/
def takeData (e : EntryId) (read : LineRead) (data : List Byte) (s : State) : Result :=
  let t := freeEntry e s
  if read.isVoid then .next t
  else match t.slots[read.slot].state with
    | .filling c k n => if data.length = jobLineSize t c then .next (fillSlot read.slot c k n data t) else .fault .answerLength
    | .stale c k n => .next (settleLine c n (setSlot read.slot (.empty c k) t))
    | .discard => .next (grant (setSlot read.slot .free t))
    | .free | .empty _ _ | .ready _ _ _ | .firing _ _ _ => .next t

/-- FETCH_DATA_ANSWER (R98): an answer that comes after the expiry is not taken (R100). -/
def execFetchDataAnswer (e : EntryId) (data : List Byte) (s : State) : Result :=
  match s.tracker[e] with
  | none => .next s
  | some read => if s.clock.now ≤ read.expiry then takeData e read data s else .next s

/-- An error answer or an expiry that is taken (R31, R99). -/
def failRead (e : EntryId) (read : LineRead) (s : State) : State :=
  let t := freeEntry e s
  if read.isVoid then t
  else match t.slots[read.slot].state with
    | .filling c _ _ => fetchFault c read.line (setSlot read.slot .free t)
    | .stale c _ _ => fetchFault c read.line (setSlot read.slot .free t)
    | .discard => grant (setSlot read.slot .free t)
    | .free | .empty _ _ | .ready _ _ _ | .firing _ _ _ => t

/-- FETCH_ERROR_ANSWER (R99). -/
def execFetchErrorAnswer (e : EntryId) (s : State) : Result :=
  .next (match s.tracker[e] with
    | none => s
    | some read => if s.clock.now ≤ read.expiry then failRead e read s else s)

/-- FETCH_EXPIRY (R99, R100): the entry's expiry is reached; the answer that has not come would now come late. -/
def execFetchExpiry (e : EntryId) (s : State) : Result :=
  .next (match s.tracker[e] with
    | none => s
    | some read => failRead e read { toMoment read.expiry s with lateReads := s.lateReads + 1 })

/-- LATE_ANSWER (R100): discarded on arrival; one late answer fewer is still to come. -/
def execLateAnswer (s : State) : Result := .next { s with lateReads := s.lateReads - 1 }

end Sys2Proof.Machine
end

