-- ==== Sys2Proof/Machine/Registers.lean ====
section
/-! DEFINITION. Machine/Registers.lean: the host's register writes: RUN, FETCH_LIMIT, TICK_DIVIDER, FAULT_CLEAR, SUBMISSION_BASE,
SUBMISSION_SIZE, PRODUCER, COMPLETION_BASE, COMPLETION_SIZE, CONSUMER, INT_MOD, REGISTER_WRITE. -/

namespace Sys2Proof.Machine

/-- The ring a CONFIG fault names: the completion ring, else the first submission ring, whose SIZE is invalid (R118). -/
def invalidRing (s : State) : Option FaultRing :=
  if Config.validCompletionSize s.comp.size = false then some .completion
  else if Config.validSubmissionSize s.cp.priority.size = false then some .priority
  else if Config.validSubmissionSize s.cp.normal.size = false then some .normal
  else none

/-- RUN becomes 0: in RESERVING or LOOKING the Command Processor moves to STOPPED (R110, R118). -/
def clearRun (s : State) : State :=
  let t := { s with run := false }
  if t.cp.state = .reserving ∨ t.cp.state = .looking then setCp .stopped t else t

/-- A write of 1 to RUN while RUN is 0, outside RESETTING (R118). -/
def startRun (s : State) : State :=
  match invalidRing s with
  | some r => handFault kindConfig r 0 s
  | none => leaveStopped { s with run := true }

/-- A write of RUN (R118, R168). -/
def writeRun (value : Bool) (s : State) : State :=
  if s.resetting then s
  else if value then (if s.run then s else startRun s)
  else clearRun s

/-- RUN (R118). -/
def execRun (value : Bool) (s : State) : Result := .next (hostWrite (writeRun value) s)

/-- FETCH_LIMIT (R94, R162). -/
def execFetchLimit (value : Byte) (s : State) : Result := .next (hostWrite (fun t => { t with fetchLimit := value }) s)

/-- The value TICK_DIVIDER holds after a write: 0 is held as 1, above 16 as 16 (R163). -/
def heldDivider (value : BitVec 5) : BitVec 5 := if value = 0 then 1 else if 16 < value.toNat then 16 else value

/-- TICK_DIVIDER (R162, R163). -/
def execTickDivider (value : BitVec 5) (s : State) : Result :=
  .next (hostWrite (fun t => { t with dividerHeld := heldDivider value }) s)

/-- FAULT after a host write (R166). -/
def clearedFault (f : FaultReg) (written : FaultKinds) : FaultReg :=
  if faultPending (dropKinds f.kinds written) then { f with kinds := dropKinds f.kinds written } else FaultReg.reset

/-- FAULT_CLEAR (R166). -/
def execFaultClear (written : FaultKinds) (s : State) : Result :=
  .next (hostWrite (fun t => evalInterrupt { t with fault := clearedFault t.fault written }) s)

/-- One word of a BASE register replaced. -/
def baseWord (half : WordHalf) (value : Word) (base : Addr) : Addr :=
  match half with
  | .low => base.extractLsb' 32 32 ++ value
  | .high => value ++ base.extractLsb' 0 32

/-- An address rounded down to a multiple of 64 (R108). -/
def down64 (a : Addr) : Addr := a.extractLsb' 6 58 ++ (0 : BitVec 6)

/-- An address rounded down to a multiple of 32 (R147). -/
def down32 (a : Addr) : Addr := a.extractLsb' 5 59 ++ (0 : BitVec 5)

/-- SUBMISSION_BASE (R108). -/
def execSubmissionBase (ring : SubRing) (half : WordHalf) (value : Word) (s : State) : Result :=
  .next (hostWrite (fun t =>
    if ringsWritable t then modRing ring (fun r => { r with base := down64 (baseWord half value r.base) }) t else t) s)

/-- SUBMISSION_SIZE (R108). -/
def execSubmissionSize (ring : SubRing) (value : Short) (s : State) : Result :=
  .next (hostWrite (fun t =>
    if ringsWritable t then modRing ring (fun r => { r with size := value, producer := 0, consumer := 0 }) t else t) s)

/-- PRODUCER (R108, R111): stored as written; in LOOKING it makes a take decision. -/
def execProducer (ring : SubRing) (value : Short) (s : State) : Result :=
  .next (hostWrite (fun t => takeDecision (modRing ring (fun r => { r with producer := value }) t)) s)

/-- COMPLETION_BASE (R147). -/
def execCompletionBase (half : WordHalf) (value : Word) (s : State) : Result :=
  .next (hostWrite (fun t =>
    if ringsWritable t then { t with comp := { t.comp with base := down32 (baseWord half value t.comp.base) } } else t) s)

/-- COMPLETION_SIZE (R147): indices 0, LAP 1, unreleased entries and their write times abandoned, condition evaluated. -/
def execCompletionSize (value : Short) (s : State) : Result :=
  .next (hostWrite (fun t =>
    if ringsWritable t then
      evalInterrupt { t with comp := { t.comp with size := value, producer := 0, consumer := 0, lap := true, times := [] } }
    else t) s)

/-- The number of entries a CONSUMER write passes: (v − CONSUMER) mod SIZE (R150). -/
def passedEntries (c : CompletionRing) (v : Short) : Nat := (v.toNat + c.size.toNat - c.consumer.toNat) % c.size.toNat

/-- A CONSUMER write lies within the written span (R150). -/
def consumerOk (c : CompletionRing) (v : Short) : Bool :=
  if Config.validCompletionSize c.size then decide (v.toNat < c.size.toNat ∧ passedEntries c v ≤ unreleased c)
  else decide (v = 0)

/-- The entries up to v are released (R150). -/
def released (c : CompletionRing) (v : Short) : CompletionRing :=
  if Config.validCompletionSize c.size then { c with consumer := v, times := c.times.drop (passedEntries c v) } else c

/-- A write of the completion CONSUMER (R150). -/
def writeConsumer (v : Short) (s : State) : State :=
  if s.comp.stopped then s
  else if consumerOk s.comp v then evalInterrupt { s with comp := released s.comp v }
  else handFault kindCompIndex .completion v { s with comp := { s.comp with stopped := true } }

/-- CONSUMER (R150). -/
def execConsumer (value : Short) (s : State) : Result := .next (hostWrite (writeConsumer value) s)

/-- INT_MOD (R157): THRESHOLD 0 is stored as 1, and the condition is evaluated. -/
def execIntMod (threshold : Byte) (age : Short) (s : State) : Result :=
  .next (hostWrite (fun t =>
    evalInterrupt { t with intMod := { threshold := if threshold = 0 then 1 else threshold, age := age } }) s)

/-- REGISTER_WRITE (R160): ignored, whatever the register and the value. -/
def execRegisterWrite (_register : PlainRegister) (_value : Word) (s : State) : Result := .next s

end Sys2Proof.Machine
end

