-- ==== Sys2Proof/Machine/Rings.lean ====
section
/-! DEFINITION. Machine/Rings.lean: RESERVATION, TAKE_DECISION, RECORD_READ_ERROR, RECORD_READ_EXPIRY, VOID_READ_ANSWER,
AUXILIARY_READ_DATA, AUXILIARY_READ_ERROR, AUXILIARY_READ_EXPIRY. -/

namespace Sys2Proof.Machine

/-- RESERVATION (R110, R152). -/
def execReservation (s : State) : Result := .next (takeReservation s)

/-- TAKE_DECISION (R111). -/
def execTakeDecision (s : State) : Result := .next (takeDecision s)

/-- RECORD_READ_ERROR (R113). -/
def execRecordReadError (s : State) : Result := .next (onRecord ringReadFault s)

/-- One more read of the Command Processor whose answer, if it comes, is late (R120). -/
def noteVoidRead (s : State) : State := modCp (fun x => { x with voidReads := x.voidReads + 1 }) s

/-- RECORD_READ_EXPIRY (R113, R120). -/
def execRecordReadExpiry (s : State) : Result :=
  .next (match s.cp.state with
    | .record r expiry => ringReadFault r (noteVoidRead (toMoment expiry s))
    | .stopped | .reserving | .looking | .auxiliary _ _ _ => s)

/-- AUXILIARY_READ_DATA (R115): the table comes before the read's expiry. -/
def execAuxiliaryReadData (data : List Byte) (s : State) : Result :=
  match s.cp.state with
  | .auxiliary r expiry command =>
    if s.clock.now ≤ expiry then
      if data.length = auxLength command then .next (applyTable r command data s) else .fault .answerLength
    else .next s
  | .stopped | .reserving | .looking | .record _ _ => .next s

/-- AUXILIARY_READ_ERROR (R115). -/
def execAuxiliaryReadError (s : State) : Result :=
  .next (match s.cp.state with
    | .auxiliary r expiry command => if s.clock.now ≤ expiry then respond r (auxCmdId command) .readFault 0 s else s
    | .stopped | .reserving | .looking | .record _ _ => s)

/-- AUXILIARY_READ_EXPIRY (R115, R120). -/
def execAuxiliaryReadExpiry (s : State) : Result :=
  .next (match s.cp.state with
    | .auxiliary r expiry command => respond r (auxCmdId command) .readFault 0 (noteVoidRead (toMoment expiry s))
    | .stopped | .reserving | .looking | .record _ _ => s)

/-- VOID_READ_ANSWER (R120): discarded on arrival; one late answer fewer is still to come. -/
def execVoidReadAnswer (s : State) : Result := .next (modCp (fun x => { x with voidReads := x.voidReads - 1 }) s)

end Sys2Proof.Machine
end

