-- ==== Sys2Proof/Machine/Dispatch.lean ====
section
/-! DEFINITION. Machine/Dispatch.lean: every command's meaning, one arm per constructor of `Instr`. -/

namespace Sys2Proof.Machine

def exec (i : Instr) (s : State) : Host.Outcome State Fault Refusal :=
  match i with
  | .deviceReset => Sys2Proof.Machine.execDeviceReset s
  | .deviceResetComplete => Sys2Proof.Machine.execDeviceResetComplete s
  | .run v => Sys2Proof.Machine.execRun v s
  | .engineReset v => Sys2Proof.Machine.execEngineReset v s
  | .fetchLimit v => Sys2Proof.Machine.execFetchLimit v s
  | .tickDivider v => Sys2Proof.Machine.execTickDivider v s
  | .faultClear kinds => Sys2Proof.Machine.execFaultClear kinds s
  | .submissionBase ring half v => Sys2Proof.Machine.execSubmissionBase ring half v s
  | .submissionSize ring v => Sys2Proof.Machine.execSubmissionSize ring v s
  | .producer ring v => Sys2Proof.Machine.execProducer ring v s
  | .completionBase half v => Sys2Proof.Machine.execCompletionBase half v s
  | .completionSize v => Sys2Proof.Machine.execCompletionSize v s
  | .consumer v => Sys2Proof.Machine.execConsumer v s
  | .intMod threshold age => Sys2Proof.Machine.execIntMod threshold age s
  | .registerWrite register v => Sys2Proof.Machine.execRegisterWrite register v s
  | .trigger g edge tick => Sys2Proof.Machine.execTrigger g edge tick s
  | .periodEnd g => Sys2Proof.Machine.execPeriodEnd g s
  | .countdownExpiry g => Sys2Proof.Machine.execCountdownExpiry g s
  | .pulseStart lane => Sys2Proof.Machine.execPulseStart lane s
  | .pulseEnd lane => Sys2Proof.Machine.execPulseEnd lane s
  | .slotGrant => Sys2Proof.Machine.execSlotGrant s
  | .fetchIssue => Sys2Proof.Machine.execFetchIssue s
  | .fetchDataAnswer entry data => Sys2Proof.Machine.execFetchDataAnswer entry data s
  | .fetchErrorAnswer entry => Sys2Proof.Machine.execFetchErrorAnswer entry s
  | .fetchExpiry entry => Sys2Proof.Machine.execFetchExpiry entry s
  | .lateAnswer => Sys2Proof.Machine.execLateAnswer s
  | .reservation => Sys2Proof.Machine.execReservation s
  | .takeDecision => Sys2Proof.Machine.execTakeDecision s
  | .recordReadError => Sys2Proof.Machine.execRecordReadError s
  | .recordReadExpiry => Sys2Proof.Machine.execRecordReadExpiry s
  | .nop id => Sys2Proof.Machine.execNop id s
  | .unknownOpcode opcode id => Sys2Proof.Machine.execUnknownOpcode opcode id s
  | .configGroup id t f => Sys2Proof.Machine.execConfigGroup id t f s
  | .configLanes id firstLane count a => Sys2Proof.Machine.execConfigLanes id firstLane count a s
  | .loadProfile id profile a => Sys2Proof.Machine.execLoadProfile id profile a s
  | .startJob id tag f => Sys2Proof.Machine.execStartJob id tag f s
  | .appendLines id tag extentCount a => Sys2Proof.Machine.execAppendLines id tag extentCount a s
  | .closeJob id tag => Sys2Proof.Machine.execCloseJob id tag s
  | .abortJob id tag => Sys2Proof.Machine.execAbortJob id tag s
  | .holdGroup id t => Sys2Proof.Machine.execHoldGroup id t s
  | .releaseGroup id t => Sys2Proof.Machine.execReleaseGroup id t s
  | .drainGroup id t => Sys2Proof.Machine.execDrainGroup id t s
  | .reportGroup id t clear a => Sys2Proof.Machine.execReportGroup id t clear a s
  | .auxiliaryReadData data => Sys2Proof.Machine.execAuxiliaryReadData data s
  | .auxiliaryReadError => Sys2Proof.Machine.execAuxiliaryReadError s
  | .auxiliaryReadExpiry => Sys2Proof.Machine.execAuxiliaryReadExpiry s
  | .voidReadAnswer => Sys2Proof.Machine.execVoidReadAnswer s
  | .jobEndPlacement => Sys2Proof.Machine.execJobEndPlacement s
  | .drainResponse => Sys2Proof.Machine.execDrainResponse s
  | .completionWrite => Sys2Proof.Machine.execCompletionWrite s
  | .ageExpiry => Sys2Proof.Machine.execAgeExpiry s

end Sys2Proof.Machine
end

