-- ==== Sys2Proof/Safety.lean ====
section
/-! DEFINITION. Safety.lean: what counts as a state in order: the laws the rules state of the whole part, as predicates that
claims use. -/

namespace Sys2Proof.Machine

/-! ## What an event leaves alone -/

/-- The fields a line event, an end of a job or a grant can change are set aside, and every other field is equal. -/
def LineFrame (s t : State) : Prop :=
  { t with
    jobs := s.jobs, lists := s.lists, endQueue := s.endQueue, slots := s.slots, slotWait := s.slotWait, groups := s.groups,
    eligible := s.eligible, pulses := s.pulses, holding := s.holding } = s

/-! ## Command Processor and holding list (R110, R152) -/

/-- R110's table: RUN and the reservation in each state of the Command Processor. -/
def CpStateOk (s : State) : Prop :=
  match s.cp.state with
  | .stopped => s.run = false
  | .reserving => s.run = true ∧ s.cp.reserved = false
  | .looking => s.run = true ∧ s.cp.reserved = true
  | .record _ _ => s.cp.reserved = true
  | .auxiliary _ _ _ => s.cp.reserved = true

/-- R152: placed records, plus 1 while a reservation is held, are at most 8; with R110's table. -/
def HoldingOk (s : State) : Prop :=
  s.holding.length + bit s.cp.reserved ≤ Config.holdingCapacity ∧ CpStateOk s

/-! ## Line groups (R49, R53) -/

/-- R49: every configured span lies within the 64 lanes, and no lane lies in two spans. -/
def SpansOk (s : State) : Prop :=
  (∀ g : GroupId, configured s.configs[g] = true → s.configs[g].firstLane.toNat + s.configs[g].laneCount.toNat ≤ 64) ∧
  (∀ g h : GroupId, g ≠ h → ∀ lane : Nat, ¬(inSpan s.configs[g] lane = true ∧ inSpan s.configs[h] lane = true))

/-- R53: every FOLLOW group has a configured leader other than itself, and no walk along leaders comes back to its start. -/
def LeadersOk (s : State) : Prop :=
  ∀ g : GroupId, hasSource s.configs[g] .follow = true →
    ∃ l : GroupId, byteGroup s.configs[g].leader = some l ∧ l ≠ g ∧ configured s.configs[l] = true ∧
      walkReaches s.configs g 4 l = false

/-! ## Job lists and drain waiters (R5, R67) -/

/-- A START_JOB whose table read is in flight has passed LIST_FULL, and still finds room (R117). -/
def AuxListOk (s : State) : Prop :=
  match s.cp.state with
  | .auxiliary _ _ (.startJob _ _ p) => s.lists[p.group].length < Config.listCapacity
  | .auxiliary _ _ (.configLanes _ _ _) => True
  | .auxiliary _ _ (.loadProfile _ _) => True
  | .auxiliary _ _ (.appendLines _ _ _ _ _) => True
  | .stopped | .reserving | .looking | .record _ _ => True

/-- R5, R67: at most four jobs in a list and at most four drain waiters in a group. -/
def ListsOk (s : State) : Prop :=
  (∀ g : GroupId, s.lists[g].length ≤ Config.listCapacity) ∧
  (∀ g : GroupId, s.groups[g].waiters.length ≤ Config.waiterCapacity) ∧ AuxListOk s

/-! ## The completion ring (R147, R148) -/

/-- With a valid SIZE both indices are below it and a write time is kept for each unreleased entry; with an invalid SIZE both
indices are 0 and no entry is unreleased. -/
def CompletionOk (s : State) : Prop :=
  if Config.validCompletionSize s.comp.size = true then
    s.comp.producer.toNat < s.comp.size.toNat ∧ s.comp.consumer.toNat < s.comp.size.toNat ∧
      s.comp.times.length = unreleased s.comp
  else s.comp.producer = 0 ∧ s.comp.consumer = 0 ∧ s.comp.times = []

/-! ## Values of registers and of group configurations (R47, R48, R74, R107, R112, R147, R157, R163) -/

/-- R48, R126: every field of the configuration that applies to the group, LEADER included, is in its range. -/
def FieldsInRange (g : GroupId) (f : GroupFields) : Prop :=
  f.laneCount.toNat ≤ 64 ∧
  (f.laneCount ≠ 0 →
    f.firstLane.toNat ≤ 63 ∧ f.firstLane.toNat + f.laneCount.toNat ≤ 64 ∧ f.source.toNat ≤ 2 ∧
    (f.source = 0 → 256 ≤ f.period.toNat ∧ f.period.toNat ≤ 16777215) ∧
    (f.source ≠ 0 → f.delay.toNat ≤ 1048575) ∧
    (f.source = 1 → f.edge.toNat ≤ 1 ∧ f.minInterval.toNat ≤ 16777215) ∧
    (f.source = 2 → f.leader.toNat ≤ 3 ∧ f.leader.toNat ≠ g.val))

/-- A command of this ring is in progress (R110). -/
def InProgress (s : State) (r : SubRing) : Prop :=
  (∃ e, s.cp.state = .record r e) ∨ ∃ e a, s.cp.state = .auxiliary r e a

/-- R107: CONSUMER of a submission ring is below SIZE; with SIZE 0 it is 0, and no command of the ring is in progress (R109). -/
def ConsumerOk (s : State) (r : SubRing) (regs : RingRegs) : Prop :=
  (regs.size ≠ 0 → regs.consumer.toNat < regs.size.toNat) ∧ (regs.size = 0 → regs.consumer = 0 ∧ ¬ InProgress s r)

/-- Every register with a stated range lies in it: the tick divider in effect and the held one, the REFCLK periods of the present tick,
THRESHOLD, the arbitration count, the three BASE registers, CONSUMER of both submission rings, DELAY of every profile entry, and the
configuration of every group. -/
def RegistersOk (s : State) : Prop :=
  (1 ≤ s.divider.toNat ∧ s.divider.toNat ≤ 16) ∧ (1 ≤ s.dividerHeld.toNat ∧ s.dividerHeld.toNat ≤ 16) ∧
  s.clock.phase < s.divider.toNat ∧ 1 ≤ s.intMod.threshold.toNat ∧ s.cp.count ≤ Config.maxPriorityRun ∧
  s.cp.priority.base.toNat % 64 = 0 ∧ s.cp.normal.base.toNat % 64 = 0 ∧ s.comp.base.toNat % 32 = 0 ∧
  ConsumerOk s .priority s.cp.priority ∧ ConsumerOk s .normal s.cp.normal ∧
  (∀ p : ProfileId, ∀ l : Fin 16, s.profiles[p].entries[l].delay.toNat ≤ Config.maxEntryDelay) ∧
  (∀ g : GroupId, FieldsInRange g s.configs[g])

end Sys2Proof.Machine
end

