-- ==== Sys2Proof/Certificates/Slice0/Obligations.lean ====
section
/-! DEFINITION. Certificates/Slice0/Obligations.lean: the statements about the part. Section `Sys2Proof.Claims` holds the words they
are written in: what the rules say, spelled out field by field and not by the model's own operations wherever that can be. -/

namespace Sys2Proof.Claims

open Sys2Proof.Machine

/-! ## Words of the statements -/

/-- A 32-bit counter after one more event: it stays at 4,294,967,295 (R19, R61). -/
def counted (x : Word) : Word := if x = 4294967295 then x else x + 1

/-- One group's record replaced, and nothing else. -/
def withGroup (g : GroupId) (x : GroupState) (s : State) : State := { s with groups := s.groups.set g x }

/-- One lane's pulse record replaced, and nothing else. -/
def withPulse (lane : LaneId) (p : Pulse) (s : State) : State := { s with pulses := s.pulses.set lane p }

/-- The registers of one submission ring replaced, and nothing else. -/
def withRegs (ring : SubRing) (regs : RingRegs) (s : State) : State :=
  match ring with
  | .priority => { s with cp := { s.cp with priority := regs } }
  | .normal => { s with cp := { s.cp with normal := regs } }

/-- The registers of a submission ring. -/
def regsOf (ring : SubRing) (s : State) : RingRegs :=
  match ring with
  | .priority => s.cp.priority
  | .normal => s.cp.normal

/-- The host's register writes (R160). -/
def hostWriteCommand : Instr → Bool
  | .run _ | .engineReset _ | .fetchLimit _ | .tickDivider _ | .faultClear _ | .submissionBase _ _ _ | .submissionSize _ _ => true
  | .producer _ _ | .completionBase _ _ | .completionSize _ | .consumer _ | .intMod _ _ | .registerWrite _ _ => true
  | .deviceReset | .deviceResetComplete | .trigger _ _ _ | .periodEnd _ | .countdownExpiry _ | .pulseStart _ => false
  | .pulseEnd _ | .slotGrant | .fetchIssue | .fetchDataAnswer _ _ | .fetchErrorAnswer _ | .fetchExpiry _ | .lateAnswer => false
  | .reservation | .takeDecision | .recordReadError | .recordReadExpiry | .nop _ | .unknownOpcode _ _ => false
  | .configGroup _ _ _ | .configLanes _ _ _ _ | .loadProfile _ _ _ | .startJob _ _ _ | .appendLines _ _ _ _ => false
  | .closeJob _ _ | .abortJob _ _ | .holdGroup _ _ | .releaseGroup _ _ | .drainGroup _ _ | .reportGroup _ _ _ _ => false
  | .auxiliaryReadData _ | .auxiliaryReadError | .auxiliaryReadExpiry | .voidReadAnswer | .jobEndPlacement => false
  | .drainResponse | .completionWrite | .ageExpiry => false

/-- The records of the Command Reference chapter: the read of a record answers with data (R114). -/
def recordAnswer : Instr → Bool
  | .nop _ | .unknownOpcode _ _ | .configGroup _ _ _ | .configLanes _ _ _ _ | .loadProfile _ _ _ | .startJob _ _ _ => true
  | .appendLines _ _ _ _ | .closeJob _ _ | .abortJob _ _ | .holdGroup _ _ | .releaseGroup _ _ | .drainGroup _ _ => true
  | .reportGroup _ _ _ _ => true
  | .run _ | .engineReset _ | .fetchLimit _ | .tickDivider _ | .faultClear _ | .submissionBase _ _ _ | .submissionSize _ _ => false
  | .producer _ _ | .completionBase _ _ | .completionSize _ | .consumer _ | .intMod _ _ | .registerWrite _ _ => false
  | .deviceReset | .deviceResetComplete | .trigger _ _ _ | .periodEnd _ | .countdownExpiry _ | .pulseStart _ => false
  | .pulseEnd _ | .slotGrant | .fetchIssue | .fetchDataAnswer _ _ | .fetchErrorAnswer _ | .fetchExpiry _ | .lateAnswer => false
  | .reservation | .takeDecision | .recordReadError | .recordReadExpiry => false
  | .auxiliaryReadData _ | .auxiliaryReadError | .auxiliaryReadExpiry | .voidReadAnswer | .jobEndPlacement => false
  | .drainResponse | .completionWrite | .ageExpiry => false

/-- A record read of this ring is in flight and its expiry has not passed (R110, R120). -/
def RecordRead (s : State) (r : SubRing) : Prop := ∃ e, s.cp.state = .record r e ∧ s.clock.now ≤ e

/-- A table read of this ring and command is in flight and its expiry has not passed (R110, R120). -/
def TableRead (s : State) (r : SubRing) (a : AuxCommand) : Prop := ∃ e, s.cp.state = .auxiliary r e a ∧ s.clock.now ≤ e

/-- CONSUMER one further, modulo SIZE (R116). -/
def passed (regs : RingRegs) : RingRegs :=
  { regs with consumer := BitVec.ofNat 16 ((regs.consumer.toNat + 1) % regs.size.toNat) }

/-- The Command Processor when a record of this ring has been consumed: CONSUMER and the arbitration count (R112, R116). -/
def consumedCp (r : SubRing) (cp : CommandProcessor) : CommandProcessor :=
  match r with
  | .priority => { cp with priority := passed cp.priority, count := min 4 (cp.count + 1) }
  | .normal => { cp with normal := passed cp.normal, count := 0 }

/-- The end of a command (R116): its response stands at the back of the holding list, CONSUMER and the arbitration count are
moved, the reservation is used, and the Command Processor is RESERVING if RUN is 1 and STOPPED if not. Nothing else changes. -/
def Ended (r : SubRing) (cmdId : Short) (status : Status) (value : Word) (s : State) : State :=
  { s with
    holding := s.holding ++ [.response cmdId status value]
    cp := { consumedCp r s.cp with reserved := false, state := if s.run then .reserving else .stopped } }

/-- A table read has been issued and the Command Processor is in AUXILIARY with it (R94, R114, R115). Nothing else changes. -/
def ReadingTable (r : SubRing) (address : Addr) (length : Nat) (a : AuxCommand) (s : State) : State :=
  { s with
    link := s.link ++ [.memRead address length]
    cp := { s.cp with state := .auxiliary r (s.clock.now + s.clock.mhz * fetchLimitMicros s.fetchLimit) a } }

/-- R158: the three causes of the interrupt condition. -/
def Condition (s : State) : Prop :=
  s.intMod.threshold.toNat ≤ unreleased s.comp ∨
  (s.intMod.age ≠ 0 ∧ ∃ w ∈ s.comp.times.head?, w + s.intMod.age.toNat * s.clock.mhz ≤ s.clock.now) ∨
  s.fault.kinds ≠ noKinds

/-- R158, R159: between these two states the condition was evaluated once: its value is that of R158, and one message is sent if
it was found true after it was false. -/
def Evaluated (s t : State) : Prop :=
  (t.condition = true ↔ Condition t) ∧
  t.link = s.link ++ (if t.condition = true ∧ s.condition = false then [.interrupt] else [])

/-- R165: FAULT after this fault was handed: RING and INDEX are those of the first fault since the kind set was last empty. -/
def faultAfter (f : FaultReg) (kind : FaultKinds) (ring : FaultRing) (index : Short) : FaultReg :=
  if f.kinds = noKinds then { kinds := kind, ring := ring, index := index }
  else { f with kinds := joinKinds f.kinds kind }

/-- BASE and SIZE writes are taken: RUN is 0 and the Command Processor is in neither RECORD nor AUXILIARY (R108, R147). -/
def RingsOpen (s : State) : Prop :=
  s.run = false ∧ (∀ r e, s.cp.state ≠ .record r e) ∧ (∀ r e a, s.cp.state ≠ .auxiliary r e a)

/-- Time has passed up to the start of a tick, if that lay ahead, and nothing else has changed (R47). -/
def AtTick (tick : Nat) (s u : State) : Prop :=
  { u with clock := s.clock } = s ∧ u.clock.tick = max s.clock.tick tick ∧ u.clock.mhz = s.clock.mhz ∧ s.clock.now ≤ u.clock.now

/-- Time has passed up to a moment, if that lay ahead, and nothing else has changed. -/
def AtMoment (moment : Nat) (s u : State) : Prop :=
  { u with clock := s.clock } = s ∧ u.clock.now = max s.clock.now moment ∧ u.clock.mhz = s.clock.mhz

/-- Every field but the clock and those a line event can reach is as it was. -/
def EventFrame (s t : State) : Prop := LineFrame { s with clock := t.clock } t

/-- No group follows this one directly. -/
def NoFollower (s : State) (g : GroupId) : Prop := ∀ f, followsDirect s.configs f g = false

/-- R60: one measurement of an interval. -/
def Measures (interval : Nat) (m n : IntervalMonitor) : Prop :=
  n.last.toNat = min interval 16777215 ∧ n.min.toNat = min m.min.toNat (min interval 16777215) ∧
  n.max.toNat = max m.max.toNat (min interval 16777215) ∧ (n.saturated = true ↔ m.saturated = true ∨ 16777215 < interval)

/-- The line at the job's fire position is not READY (R36). -/
def NotReady (s : State) (c : CtxId) (j : Job) : Prop :=
  ∀ i, slotAt s c (j.firePos % j.depth) = some i → slotReady s.slots[i].state = false

/-- The job stands at the front of its group's list, once, and carries the group's number (R5). -/
def AtFront (s : State) (g : GroupId) (c : CtxId) (rest : List CtxId) (j : Job) : Prop :=
  s.lists[g] = c :: rest ∧ c ∉ rest ∧ s.jobs[c] = some j ∧ j.group = g

/-- The parts of a job that START_JOB sets for its life are the same (R1). -/
def SameJob (j k : Job) : Prop :=
  k.tag = j.tag ∧ k.group = j.group ∧ k.profile = j.profile ∧ k.policy = j.policy ∧ k.depth = j.depth ∧
  k.armLevel = j.armLevel ∧ k.markEvery = j.markEvery

/-- The slots of a context's ring: no slot has it as owner. -/
def NoRing (s : State) (c : CtxId) : Prop := ∀ (i : SlotId) (k : Nat), ringPlace s.slots[i].state ≠ some (c, k)

/-- R127: CONFIG_GROUP finds the group, or one that it concerns, busy. -/
def ConfigBusy (s : State) (g : GroupId) (f : GroupFields) : Prop :=
  s.lists[g] ≠ [] ∨ (∃ h, follows s.configs g h = true ∧ s.lists[h] ≠ []) ∨
  (f.laneCount = 0 ∧ ∃ h, h ≠ g ∧ followsDirect s.configs h g = true)

/-- R128: a lane of the new span lies in the span of another configured group. -/
def SharesLane (s : State) (g : GroupId) (f : GroupFields) : Prop :=
  ∃ h, h ≠ g ∧ ∃ lane, inSpan f lane = true ∧ inSpan s.configs[h] lane = true

/-- R128: the walk from LEADER reaches the group being configured. -/
def MakesLoop (s : State) (g : GroupId) (f : GroupFields) : Prop :=
  f.source = 2 ∧ ∃ l : GroupId, f.leader.toNat = l.val ∧ walkReaches s.configs g 4 l = true

/-- R128: the group named by LEADER is OFF. -/
def LeaderOff (s : State) (f : GroupFields) : Prop :=
  f.source = 2 ∧ ∃ l : GroupId, f.leader.toNat = l.val ∧ s.configs[l].laneCount = 0

/-- The group as an accepted CONFIG_GROUP leaves it: everything initial but the drain waiters (R52). -/
def Reconfigured (s : State) (f : GroupFields) (x : GroupState) : GroupState :=
  { clock := if f.laneCount = 0 then .stopped else if f.source = 0 then .counting s.clock.tick
             else if f.source = 1 then .waitEdge else .waitLeader
    hold := .none, lastAccepted := none
    counters := { lineEvents := 0, idleEvents := 0, heldEvents := 0, trigAccepted := 0, trigBusy := 0, trigFast := 0 }
    monitor := { last := 0, min := 0xFFFFFF, max := 0, saturated := false }
    latched := none, waiters := x.waiters }

/-- A job as START_JOB creates it in a context (R2, R90). -/
def NewJob (tag : Word) (p : JobParams) (extents : List Extent) (j : Job) : Prop :=
  j.tag = tag ∧ j.group = p.group ∧ j.profile = p.profile ∧ j.policy = p.policy ∧ j.depth = p.depth ∧
  j.armLevel = p.armLevel ∧ j.markEvery = p.markEvery ∧ j.isOpen = p.isOpen ∧
  j.extents = numberExtents 0 extents ∧ j.supplied = totalLines extents ∧ j.retired = 0 ∧ j.cursor = 0 ∧ j.firePos = 0 ∧
  j.linesFired = 0 ∧ j.linesSkipped = 0 ∧ j.heldEvents = 0 ∧ j.clipped = 0 ∧ j.noticesLost = 0

/-- What an accepted START_JOB does (R2, R6, R26, R116, R135, R136): the lowest-numbered free context takes the job, the job joins the
back of its group's list in the state R136 gives, and the OK carries the context number. -/
def Created (s t : State) (r : SubRing) (cmdId : Short) (tag : Word) (p : JobParams) (extents : List Extent) (c : CtxId) : Prop :=
  s.jobs[c] = none ∧ (∀ d : CtxId, d < c → s.jobs[d] ≠ none) ∧
  (∃ j, t.jobs[c] = some j ∧ NewJob tag p extents j ∧
    (2 ≤ s.lists[p.group].length →
      j.state = .pending ∧ t.slotWait = s.slotWait ∧ t.slots = s.slots ∧ ∀ d : CtxId, d ≠ c → t.jobs[d] = s.jobs[d]) ∧
    (s.lists[p.group].length < 2 → s.slotWait = [] → NoRing s c → p.depth ≤ freeCount s →
      j.state = .primed ∧ t.slotWait = [] ∧ (∀ d : CtxId, d ≠ c → t.jobs[d] = s.jobs[d]) ∧
      ∀ i : SlotId, t.slots[i].levels = s.slots[i].levels ∧
        (∀ k, k < p.depth → (freeSlots s)[k]? = some i → t.slots[i].state = .empty c k) ∧
        (i ∉ (freeSlots s).take p.depth → t.slots[i] = s.slots[i])) ∧
    (s.lists[p.group].length < 2 →
      (s.slotWait = [] ∧ freeCount s < p.depth ∨
        ∃ h rest m, s.slotWait = h :: rest ∧ s.jobs[h] = some m ∧ freeCount s < m.depth) →
      j.state = .waiting ∧ t.slotWait = s.slotWait ++ [c] ∧ t.slots = s.slots ∧ ∀ d : CtxId, d ≠ c → t.jobs[d] = s.jobs[d])) ∧
  (∀ g : GroupId, t.lists[g] = if g = p.group then s.lists[g] ++ [c] else s.lists[g]) ∧
  t.holding = s.holding ++ [.response cmdId .ok (BitVec.ofNat 32 c.val)] ∧
  t.cp = { consumedCp r s.cp with reserved := false, state := if s.run then .reserving else .stopped } ∧
  { t with jobs := s.jobs, lists := s.lists, slots := s.slots, slotWait := s.slotWait, holding := s.holding, cp := s.cp } = s

/-- The commands run one after the other, each to a next state. -/
def Runs : List Instr → State → State → Prop
  | [], s, t => t = s
  | c :: cs, s, t => ∃ u, exec c s = .next u ∧ Runs cs u t

/-- 10.5: the kinds whose bit is 1 in a write of the word at 08h. -/
def kindsWritten (w : Word) : FaultKinds :=
  { ringRead := w.getLsbD 12, ringIndex := w.getLsbD 13, config := w.getLsbD 14, compIndex := w.getLsbD 15 }

/-- R163: the divider that is held after this value is written. -/
def dividerAfter (d : BitVec 5) : BitVec 5 := if d = 0 then 1 else if 16 < d.toNat then 16 else d

/-- R124: the code of a STATUS. -/
def statusNumber : Status → Byte
  | .ok => 0
  | .badField => 1
  | .readFault => 2
  | .groupOff => 3
  | .groupBusy => 4
  | .laneConflict => 5
  | .followLoop => 6
  | .tagInUse => 7
  | .noContext => 8
  | .listFull => 9
  | .notFound => 10
  | .jobEnded => 11
  | .jobClosed => 12
  | .extentsFull => 13
  | .waitLimit => 14

/-- R151: the code of an end status. -/
def endNumber : EndStatus → Byte
  | .ended => 0
  | .aborted => 1
  | .underrun => 2
  | .fetchFault _ => 3

/-- 10.5: the code of RING. -/
def ringNumber : FaultRing → BitVec 2
  | .none => 0
  | .priority => 1
  | .normal => 2
  | .completion => 3

/-! ### Words for line clocks and line events -/

/-- R56: an edge of this polarity on the input of this group is a trigger. -/
def IsTrigger (f : GroupFields) (edge : Edge) : Prop :=
  f.laneCount ≠ 0 ∧ f.source = 1 ∧ (edge = .rising ∧ f.edge = 0 ∨ edge = .falling ∧ f.edge = 1)

/-- R56: the fast test drops a trigger seen in this tick. -/
def TooSoon (f : GroupFields) (x : GroupState) (tick : Nat) : Prop :=
  f.minInterval ≠ 0 ∧ ∃ t, x.lastAccepted = some t ∧ tick - t < f.minInterval.toNat

/-- R56, R60: the group after a trigger accepted in this tick, its clock left to the case. -/
def Accepted (tick : Nat) (clock : LineClock) (x y : GroupState) : Prop :=
  ∃ m, y = { x with
      clock := clock
      lastAccepted := some tick
      counters := { x.counters with trigAccepted := counted x.counters.trigAccepted }
      monitor := m } ∧
    (x.lastAccepted = none → m = x.monitor) ∧ (∀ t, x.lastAccepted = some t → Measures (tick - t) x.monitor m)

/-- R60: the monitor of a group after a trigger accepted in this tick. -/
def monitorAt (tick : Nat) (x : GroupState) : IntervalMonitor :=
  match x.lastAccepted with
  | none => x.monitor
  | some t =>
    { last := BitVec.ofNat 24 (min (tick - t) 16777215)
      min := BitVec.ofNat 24 (min x.monitor.min.toNat (min (tick - t) 16777215))
      max := BitVec.ofNat 24 (max x.monitor.max.toNat (min (tick - t) 16777215))
      saturated := x.monitor.saturated || decide (16777215 < tick - t) }

/-- R58, R59: a leader's line event at a group that follows it directly. With DELAY 0 the follower's own line event comes at once, with
all it reaches. -/
def followerTakes (f : GroupId) (s : State) : State :=
  let accepted (clock : LineClock) : State := withGroup f { s.groups[f] with
    clock := clock
    lastAccepted := some s.clock.tick
    counters := { s.groups[f].counters with trigAccepted := counted s.groups[f].counters.trigAccepted }
    monitor := monitorAt s.clock.tick s.groups[f] } s
  match s.groups[f].clock with
  | .waitLeader =>
    if s.configs[f].delay = 0 then produceLineEvent f (accepted .waitLeader)
    else accepted (.delaying (s.clock.tick + s.configs[f].delay.toNat))
  | .delaying _ => withGroup f { s.groups[f] with
      counters := { s.groups[f].counters with trigBusy := counted s.groups[f].counters.trigBusy } } s
  | .stopped | .counting _ | .waitEdge => s

/-- The trigger side of a group and its countdown are the same. -/
def SameTriggers (x y : GroupState) : Prop :=
  y.clock = x.clock ∧ y.lastAccepted = x.lastAccepted ∧ y.monitor = x.monitor ∧
  y.counters.trigAccepted = x.counters.trigAccepted ∧ y.counters.trigBusy = x.counters.trigBusy ∧
  y.counters.trigFast = x.counters.trigFast

/-- R10: the RUNNING job at the front of its group's list has a READY slot for the line at its fire position. -/
def Fires (s : State) (g : GroupId) (c : CtxId) (rest : List CtxId) (j : Job) (i : SlotId) : Prop :=
  AtFront s g c rest j ∧ j.state = .running ∧ slotAt s c (j.firePos % j.depth) = some i ∧
  ∃ n, s.slots[i].state = .ready c (j.firePos % j.depth) n

/-- R10: the line at the fire position is the last of a closed job. -/
def LastLine (j : Job) : Prop := j.isOpen = false ∧ j.firePos + 1 = j.supplied

/-- R152, R153: how many unreserved holding entries are free. -/
def roomOf (s : State) : Nat := 8 - (s.holding.length + if s.cp.reserved = true then 1 else 0)

/-- R20: firing its next line raises a MARK of the job. -/
abbrev MarkDue (j : Job) : Prop := j.markEvery ≠ 0 ∧ (counted j.linesFired).toNat % j.markEvery.toNat = 0

/-- R19, R82: CLIPPED after the cut of the group's pulses at a delivered line event. -/
def clippedAfter (s : State) (g : GroupId) (c : CtxId) (j : Job) : Word :=
  BitVec.ofNat 32 (min 4294967295 (j.clipped.toNat + cutLanes g c s))

/-- R33: a FIRING slot of the context becomes EMPTY; any other slot keeps its state. -/
def unfired (c : CtxId) (x : SlotState) : SlotState :=
  match x with
  | .firing o k _ => if o = c then .empty c k else x
  | .free | .empty _ _ | .filling _ _ _ | .ready _ _ _ | .stale _ _ _ | .discard => x

/-- R76: the entries the group fires from, when the firing job names this profile. -/
def firedEntries (s : State) (g : GroupId) (p : ProfileId) : Vector ProfileEntry 16 :=
  match s.groups[g].latched with
  | none => s.profiles[p].entries
  | some l => if l.number = p ∧ l.generation = s.profiles[p].generation then l.entries else s.profiles[p].entries

/-- R80: the pulse a line gives a lane: enabled, with the level's WIDTH not 0, from DELAY + TRIM raised to 1. -/
def formed (s : State) (g : GroupId) (c : CtxId) (slot : SlotId) (p : ProfileId) (lane : LaneId) : Pulse :=
  if inSpan s.configs[g] lane.val = true ∧ s.lanes[lane].enable = true then
    let level := s.slots[slot].levels.toList.getD (lane.val - s.configs[g].firstLane.toNat) 0
    let entry := (firedEntries s g p)[level.toFin]
    if entry.width = 0 then .none
    else
      let start := s.clock.tick + (max 1 ((entry.delay.toNat : Int) + s.lanes[lane].trim.toInt)).toNat
      .scheduled start (start + entry.width.toNat) g c
  else .none

/-- A pulse record after a cut of the group's span: NONE within the span, untouched outside it (R82, R85). -/
def cutPulse (s : State) (g : GroupId) (lane : LaneId) : Pulse :=
  if inSpan s.configs[g] lane.val = true then .none else s.pulses[lane]

/-- R10, R12: the start of firing at a line event. The job, whose line stood READY in slot i, has fired it: it is RUNNING, or after its
last line FINISHING if a pulse was formed and ENDED if none was; the event is not idle, and with a pulse formed or lines to come the
slot is FIRING and the span's pulses are the line's. `list` is the group's list with the job at its front. -/
def Started (s t : State) (g : GroupId) (d : CtxId) (m : Job) (i : SlotId) (list : List CtxId) : Prop :=
  (∃ k, t.jobs[d] = some k ∧ SameJob m k ∧ k.firePos = m.firePos + 1 ∧ k.linesFired = counted m.linesFired ∧
    (¬ LastLine m → k.state = .running) ∧
    (LastLine m → (∃ lane, formed s g d i m.profile lane ≠ .none) → k.state = .finishing) ∧
    (LastLine m → (∀ lane, formed s g d i m.profile lane = .none) → k.state = .ended .ended)) ∧
  t.groups[g].counters = s.groups[g].counters ∧
  (¬ LastLine m ∨ (∃ lane, formed s g d i m.profile lane ≠ .none) →
    t.slots[i].state = .firing d (m.firePos % m.depth) m.firePos ∧ t.lists[g] = list ∧
    ∀ lane : LaneId, t.pulses[lane] =
      if inSpan s.configs[g] lane.val = true then formed s g d i m.profile lane else s.pulses[lane]) ∧
  (LastLine m → (∀ lane, formed s g d i m.profile lane = .none) →
    NoRing t d ∧ t.lists[g] = list.filter (fun e => decide (e ≠ d)) ∧ ∀ lane : LaneId, t.pulses[lane] = cutPulse s g lane)

/-! ### Words for slots, reads and extents -/

/-- R40: a slot after the release of the ring of a context. -/
def freed (c : CtxId) (x : SlotState) : SlotState :=
  match x with
  | .empty o _ | .ready o _ _ | .firing o _ _ => if o = c then .free else x
  | .filling o _ _ | .stale o _ _ => if o = c then .discard else x
  | .free | .discard => x

/-- R102: the extents after a job line has been settled in the one that holds it. -/
def settledIn (n : Nat) (es : List Extent) : List Extent :=
  es.map fun e => if e.firstLine ≤ n ∧ n < e.firstLine + e.lines.toNat then { e with settled := e.settled + 1 } else e

/-- R103: an extent is wholly settled. -/
def wholly (e : Extent) : Bool := decide (e.settled = e.lines.toNat)

/-- R104: the notices of extents that retire, the first with this ordinal. -/
def noticesOf (tag : Word) : Nat → List Extent → List CompRecord
  | _, [] => []
  | n, e :: es => if e.notify = true then .extentDone tag n :: noticesOf tag (n + 1) es else noticesOf tag (n + 1) es

/-- R102 to R104: a job after one of its lines has been settled, with this much room for its notices. -/
def settledJob (n room : Nat) (j : Job) : Job :=
  { j with
    extents := (settledIn n j.extents).dropWhile wholly
    retired := j.retired + ((settledIn n j.extents).takeWhile wholly).length
    noticesLost := BitVec.ofNat 32 (min 4294967295
      (j.noticesLost.toNat + ((noticesOf j.tag j.retired ((settledIn n j.extents).takeWhile wholly)).length - room))) }

/-- R104: the notices placed when a line of the job is settled, with this much room. -/
def settledNotices (n room : Nat) (j : Job) : List CompRecord :=
  (noticesOf j.tag j.retired ((settledIn n j.extents).takeWhile wholly)).take room

/-- R28: the Line Store offers the job in this context, with this slot for the line at its cursor. -/
def Offers (s : State) (c : CtxId) (j : Job) (i : SlotId) : Prop :=
  s.jobs[c] = some j ∧ (j.state = .primed ∨ j.state = .armed ∨ j.state = .running ∨ j.state = .finishing) ∧
  j.cursor < j.supplied ∧ j.cursor < j.firePos + j.depth ∧
  slotAt s c (j.cursor % j.depth) = some i ∧ s.slots[i].state = .empty c (j.cursor % j.depth)

/-- R95: the first class: RUNNING and FINISHING. -/
def FirstClass (j : Job) : Prop := j.state = .running ∨ j.state = .finishing

/-- R95: how many groups after the last-served one this group comes, 0 to 3. -/
def turnOf (s : State) (g : GroupId) : Nat := (g.val + 3 - s.lastServed.val) % 4

/-- R95: the offered job in this context, in this group's list, is the one an issue decision serves. -/
def IsServed (s : State) (g : GroupId) (c : CtxId) (j : Job) : Prop :=
  (∃ before after, s.lists[g] = before ++ c :: after ∧
    ∀ d ∈ before, ∀ m i, Offers s d m i → ¬(FirstClass m ↔ FirstClass j)) ∧
  (∀ h, ∀ d ∈ s.lists[h], ∀ m i, Offers s d m i →
    (FirstClass m → FirstClass j) ∧ ((FirstClass m ↔ FirstClass j) → turnOf s g ≤ turnOf s h))

/-- A line read is in flight in this entry, not VOID, its expiry has not passed, and no engine reset is being waited for. -/
def LiveRead (s : State) (e : EntryId) (read : LineRead) : Prop :=
  s.tracker[e] = some read ∧ s.clock.now ≤ read.expiry ∧ read.isVoid = false ∧ s.resetting = false

/-- The tracker entry freed, and nothing else (R93). -/
def entryFreed (e : EntryId) (s : State) : State := { s with tracker := s.tracker.set e none }

/-! ### Words for jobs that end and commands of the rings -/

/-- R8: the arming condition of a job as it now stands. -/
def ArmsNow (s : State) (c : CtxId) (j : Job) : Prop :=
  1 ≤ min j.armLevel (j.supplied - j.firePos) ∧
  ∀ n, n < min j.armLevel (j.supplied - j.firePos) →
    ∃ i, slotAt s c ((j.firePos + n) % j.depth) = some i ∧ slotReady s.slots[i].state = true

/-- R8: the job after a test for arming, made in this state. -/
def ArmTested (s : State) (c : CtxId) (j k : Job) : Prop :=
  (j.state = .primed ∧ ArmsNow s c j → k = { j with state := .armed }) ∧
  (¬ (j.state = .primed ∧ ArmsNow s c j) → k = j)

/-- The pulse records after a cut of a group's span. -/
def cutPulses (s : State) (g : GroupId) : Vector Pulse 64 := Vector.ofFn fun lane => cutPulse s g lane

/-- R17, R18, R85: the pulses of a RUNNING or FINISHING job are cut, uncounted. -/
def afterCut (j : Job) (s : State) : State :=
  { s with pulses := if j.state = .running ∨ j.state = .finishing then cutPulses s j.group else s.pulses }

/-- R6: the job, if any, that the end of the job in this context moves up to position 1 of the group's list from PENDING. -/
def movesUp (s : State) (c : CtxId) (g : GroupId) : List CtxId :=
  match (s.lists[g].filter fun d => decide (d ≠ c))[1]? with
  | none => []
  | some d =>
    match s.jobs[d] with
    | none => []
    | some m => if m.state = .pending then [d] else []

/-- R6, R9, R40, R43: job contexts, slots and slot wait list once the job in context c has ended: they are those of the grant rule,
considered once after the job has left the wait list, every slot of its ring has been released and the PENDING job that comes to
position 1 has become WAITING at the back of the wait list. -/
def GrantAfterEnd (s t : State) (c : CtxId) (g : GroupId) : Prop :=
  ∃ w r, exec .slotGrant w = .next r ∧ t.jobs = r.jobs ∧ t.slots = r.slots ∧ t.slotWait = r.slotWait ∧
    w.jobs[c] = t.jobs[c] ∧
    (∀ d : CtxId, d ≠ c → w.jobs[d] =
      if d ∈ movesUp s c g then s.jobs[d].map (fun m => { m with state := .waiting }) else s.jobs[d]) ∧
    w.slotWait = s.slotWait.filter (fun d => decide (d ≠ c)) ++ movesUp s c g ∧
    (∀ i : SlotId, w.slots[i] = { s.slots[i] with state := freed c s.slots[i].state }) ∧
    { w with jobs := s.jobs, slots := s.slots, slotWait := s.slotWait } = s

/-- R5, R6, R9, R17, R18, R21, R40, R43: the job in this context ends with this status. Its counters stay as they were; it leaves the
wait list, its ring and its group's list, where the jobs behind it move up and the grant rule is considered; its JOB_END is placed at
once if an unreserved entry is free and none waits before it, and waits in the end queue if none is free. With no other job in or on
its way to the wait list the slots are as R40 says. -/
def JobEnds (s t : State) (c : CtxId) (j : Job) (status : EndStatus) : Prop :=
  (∃ k, t.jobs[c] = some k ∧ SameJob j k ∧ k.state = .ended status ∧ k.firePos = j.firePos ∧ k.supplied = j.supplied ∧
    k.linesFired = j.linesFired ∧ k.linesSkipped = j.linesSkipped ∧ k.heldEvents = j.heldEvents ∧ k.clipped = j.clipped ∧
    k.noticesLost = j.noticesLost) ∧
  NoRing t c ∧ c ∉ t.slotWait ∧
  (∀ g : GroupId, t.lists[g] = if g = j.group then s.lists[g].filter (fun d => decide (d ≠ c)) else s.lists[g]) ∧
  (s.endQueue = [] → roomOf s ≠ 0 → t.endQueue = [] ∧ ∃ more, t.holding = s.holding ++ (CompRecord.jobEnd j.tag c status
    j.linesFired j.linesSkipped j.heldEvents j.clipped j.noticesLost :: more)) ∧
  (roomOf s = 0 → t.endQueue = s.endQueue ++ [c] ∧ t.holding = s.holding) ∧
  (s.slotWait = [] → (∀ d ∈ s.lists[j.group], ∀ m, s.jobs[d] = some m → m.state ≠ .pending) →
    t.slotWait = [] ∧ ∀ i : SlotId, t.slots[i] = { s.slots[i] with state := freed c s.slots[i].state }) ∧
  GrantAfterEnd s t c j.group ∧
  (∀ g : GroupId, { t.groups[g] with waiters := s.groups[g].waiters } = s.groups[g]) ∧
  t.pulses = s.pulses ∧ LineFrame s t

/-- R3: this context is the one that carries the TAG (the lowest, in states no run reaches where more than one does). -/
def Carries (s : State) (tag : Word) (c : CtxId) (j : Job) : Prop :=
  s.jobs[c] = some j ∧ j.tag = tag ∧ ∀ (d : CtxId) k, d < c → s.jobs[d] = some k → k.tag ≠ tag

/-- A live context carries the TAG (R3). -/
def TagLive (s : State) (tag : Word) : Prop := ∃ (c : CtxId) (j : Job), s.jobs[c] = some j ∧ j.tag = tag

/-- The job is ENDED. -/
def IsEnded (j : Job) : Prop := ∃ st, j.state = .ended st

/-- The address is a multiple of 4 (R121). -/
abbrev Aligned (a : Addr) : Prop := a.toNat % 4 = 0

/-- R130: the record checks of CONFIG_LANES hold. -/
def LanesInRange (firstLane count : Byte) (address : Addr) : Prop :=
  firstLane.toNat ≤ 63 ∧ 1 ≤ count.toNat ∧ firstLane.toNat + count.toNat ≤ 64 ∧ Aligned address

/-- R130: a lane of the range lies in the span of a group whose job list is not empty. -/
def LanesBusy (s : State) (firstLane count : Byte) : Prop :=
  ∃ g : GroupId, s.lists[g] ≠ [] ∧
    ∃ lane, firstLane.toNat ≤ lane ∧ lane < firstLane.toNat + count.toNat ∧ inSpan s.configs[g] lane = true

/-- R134 check 1: the record checks of START_JOB hold. -/
def StartInRange (f : StartFields) : Prop :=
  f.group.toNat ≤ 3 ∧ f.profile.toNat ≤ 7 ∧ f.policy.toNat ≤ 2 ∧ (2 ≤ f.depth.toNat ∧ f.depth.toNat ≤ 16) ∧
  (1 ≤ f.armLevel.toNat ∧ f.armLevel.toNat ≤ f.depth.toNat) ∧ f.extentCount.toNat ≤ 16 ∧
  (f.isOpen = true ∨ f.extentCount ≠ 0) ∧ (f.extentCount = 0 ∨ Aligned f.listAddress)

/-- R133: the parameters a START_JOB record carries. -/
def ParamsOf (f : StartFields) (p : JobParams) : Prop :=
  p.group.val = f.group.toNat ∧ p.profile.val = f.profile.toNat ∧
  (f.policy = 0 ∧ p.policy = .skip ∨ f.policy = 1 ∧ p.policy = .hold ∨ f.policy = 2 ∧ p.policy = .stop) ∧
  p.depth = f.depth.toNat ∧ p.armLevel = f.armLevel.toNat ∧ p.markEvery = f.markEvery ∧ p.isOpen = f.isOpen ∧
  p.extentCount = f.extentCount.toNat

/-- R134 checks 2 to 5 hold for this group. -/
def StartFits (s : State) (tag : Word) (g : GroupId) : Prop :=
  s.configs[g].laneCount ≠ 0 ∧ ¬ TagLive s tag ∧ (∃ c : CtxId, s.jobs[c] = none) ∧ s.lists[g].length < 4

/-- R137 check 1: the record checks of APPEND_LINES hold. -/
def AppendInRange (extentCount : Byte) (address : Addr) : Prop :=
  1 ≤ extentCount.toNat ∧ extentCount.toNat ≤ 16 ∧ Aligned address

/-- The extent entry at a place of a table (10.2). -/
def entryOfTable (data : List Byte) (k : Nat) : Extent :=
  { base := addrAt data (16 * k), lines := shortAt data (16 * k + 8), stride := shortAt data (16 * k + 10),
    notify := (byteAt data (16 * k + 12)).getLsbD 0, firstLine := 0, settled := 0 }

/-- The extent entries of a table. -/
def entriesOfTable (data : List Byte) (n : Nat) : List Extent := (List.range n).map (entryOfTable data)

/-- R135: the extent is in range for this line size. -/
def ExtentInRange (size : Nat) (e : Extent) : Prop :=
  e.lines ≠ 0 ∧ Aligned e.base ∧ e.stride.toNat % 4 = 0 ∧ size ≤ e.stride.toNat

/-- R111: PRODUCER of a ring in use is out of range. -/
def ProducerBad (regs : RingRegs) : Prop := regs.size ≠ 0 ∧ regs.size.toNat ≤ regs.producer.toNat

/-- R109: the ring holds records. -/
def HoldsRecords (regs : RingRegs) : Prop := regs.size ≠ 0 ∧ regs.producer ≠ regs.consumer

/-- R94, R113: the record at CONSUMER of this ring is being read. Nothing else has changed. -/
def ReadingRecord (r : SubRing) (s : State) : State :=
  { s with
    link := s.link ++ [.memRead ((regsOf r s).base + BitVec.ofNat 64 ((regsOf r s).consumer.toNat * 64)) 64]
    cp := { s.cp with state := .record r (s.clock.now + s.clock.mhz * fetchLimitMicros s.fetchLimit) } }

/-- RING of FAULT for a submission ring. -/
def ringOf (r : SubRing) : FaultRing :=
  match r with
  | .priority => .priority
  | .normal => .normal

/-- R111, R113, R165: a ring fault of this one kind. RUN is cleared, the Command Processor is STOPPED with the reservation it had,
FAULT takes the fault, and the condition is evaluated if the kind is new. Nothing else changes. -/
def StopsWith (s t : State) (kind : FaultKinds) (ring : FaultRing) (index : Short) : Prop :=
  t.run = false ∧ t.cp = { s.cp with state := .stopped } ∧
  (joinKinds s.fault.kinds kind = s.fault.kinds → t.fault = s.fault ∧ t.condition = s.condition ∧ t.link = s.link) ∧
  (joinKinds s.fault.kinds kind ≠ s.fault.kinds → t.fault = faultAfter s.fault kind ring index ∧ Evaluated s t) ∧
  { t with run := s.run, cp := s.cp, fault := s.fault, condition := s.condition, link := s.link } = s

/-- The hold state of a group replaced, and nothing else. -/
def withHold (g : GroupId) (h : HoldState) (s : State) : State := withGroup g { s.groups[g] with hold := h } s

end Sys2Proof.Claims

open Sys2Proof Sys2Proof.Machine Sys2Proof.Claims

/-! ## Steps and the queue -/

/-- A step runs the command at the front of the queue on the state with the queue's rest (the row's own form of a block). On an
empty queue one REFCLK period passes and nothing else happens: the model's choice, assumptions 2 and 19; ticks follow R47. -/
def Obligations.StepRunsFrontCommandOrIdles : Prop :=
  (∀ (c : Instr) (rest : List Instr) (s : State), s.pending = c :: rest → step s = exec c { s with pending := rest }) ∧
  (∀ s : State, s.pending = [] → s.clock.phase < s.divider.toNat →
    ∃ t, step s = .next t ∧ { t with clock := s.clock } = s ∧ t.clock.mhz = s.clock.mhz ∧ t.clock.now = s.clock.now + 1 ∧
      if s.clock.phase + 1 = s.divider.toNat then t.clock.tick = s.clock.tick + 1 ∧ t.clock.phase = 0
      else t.clock.tick = s.clock.tick ∧ t.clock.phase = s.clock.phase + 1)

/-- No command reads the queue or changes it: with another queue it has the same outcome, and leaves that queue. -/
def Obligations.CommandsNeitherReadNorChangeQueue : Prop :=
  ∀ (c : Instr) (s : State) (q : List Instr),
    exec c { s with pending := q } =
      match exec c s with
      | .next t => .next { t with pending := q }
      | .fault r => .fault r
      | .refused r => .refused r

/-! ## Device Control and the two resets (09_device_control.md) -/

/-- A host write sent while a device reset is taken is lost (R169). -/
def Obligations.HostWritesLostInDeviceReset : Prop :=
  ∀ (c : Instr) (s : State), hostWriteCommand c = true → s.inReset.isSome = true → exec c s = .next s

/-- DEVICE_RESET and DEVICE_RESET_COMPLETE (R169, R87): while the reset is taken every block holds its reset values, every lane is
low and no register reads; the reset lasts at least 10 µs; at completion the divider in effect is the held one, which is 1, every
lane is low and the sixteen words read as R161 to R164, R107, R147 and R157 state for device reset. -/
def Obligations.DeviceResetLeavesResetValues : Prop :=
  (∀ s : State, ∃ r t, exec .deviceReset s = .next r ∧ exec .deviceResetComplete r = .next t ∧
    r.inReset = some s.clock.now ∧ r.clock = s.clock ∧
    { r with inReset := none, clock := State.reset.clock, divider := 1, link := [], pending := [] } = State.reset ∧
    r.link = s.link ∧ r.pending = s.pending ∧ (∀ lane, laneLevel r lane = false) ∧ (∀ offset, readWindow r offset = none) ∧
    { t with clock := State.reset.clock, link := [], pending := [] } = State.reset ∧
    t.link = s.link ∧ t.pending = s.pending ∧ s.clock.now + 10 * s.clock.mhz ≤ t.clock.now ∧ t.divider = 1 ∧
    (∀ lane, laneLevel t lane = false) ∧
    readWindow t 0x04 = some 0x00017D00 ∧ readWindow t 0x08 = some 0 ∧ readWindow t 0x0C = some 1 ∧
    (∀ offset ∈ [0x10, 0x14, 0x18, 0x1C, 0x20, 0x24, 0x28, 0x2C, 0x30, 0x34, 0x38, 0x3C], readWindow t offset = some 0)) ∧
  (∀ (r : State) (fell : Nat), r.inReset = some fell →
    ∃ t, exec .deviceResetComplete r = .next t ∧ t.inReset = none ∧ t.divider = r.dividerHeld ∧
      t.clock.now = max r.clock.now (fell + 10 * r.clock.mhz) ∧
      { t with clock := r.clock, divider := r.divider, inReset := r.inReset } = r)

/-- IDENT (R161, with the encoding of 10.5): the same word in every state in which the host port takes a read, part code, silicon
revision, and the base-two exponents of the seven capacities. -/
def Obligations.IdentIsConstantAndNamesCapacities : Prop :=
  ∃ w : Word,
    (∀ s : State, s.inReset = none → readWindow s 0x00 = some w) ∧
    w.extractLsb' 0 8 = 0x80 ∧ w.extractLsb' 8 3 = 1 ∧
    2 ^ (w.extractLsb' 11 3).toNat = 64 ∧ 2 ^ (w.extractLsb' 14 3).toNat = 4 ∧ 2 ^ (w.extractLsb' 17 3).toNat = 32 ∧
    2 ^ (w.extractLsb' 20 3).toNat = 16 ∧ 2 ^ (w.extractLsb' 23 3).toNat = 8 ∧ 2 ^ (w.extractLsb' 26 3).toNat = 4 ∧
    2 ^ (w.extractLsb' 29 3).toNat = 8

/-- RUN (R118, R110, R168): ignored during RESETTING; 1 while RUN is 1 has no effect; 1 while RUN is 0 tests the three SIZE
registers and hands a CONFIG fault that names the completion ring or else the first invalid submission ring, or sets RUN and lets the Command
Processor leave STOPPED, or leaves it in RECORD or AUXILIARY where a command is still in progress; 0 clears RUN, and a command in
progress goes on. -/
def Obligations.RunWriteStartsAndStopsCommands : Prop :=
  ∀ s : State, s.inReset = none →
    (s.resetting = true → ∀ v, exec (.run v) s = .next s) ∧
    (s.resetting = false →
      (s.run = true → exec (.run true) s = .next s) ∧
      exec (.run false) s = .next { s with
        run := false
        cp := { s.cp with state := if s.cp.state = .reserving ∨ s.cp.state = .looking then .stopped else s.cp.state } } ∧
      (s.run = false →
        (∀ ring,
          (Config.validCompletionSize s.comp.size = false ∧ ring = FaultRing.completion ∨
            Config.validCompletionSize s.comp.size = true ∧
              (Config.validSubmissionSize s.cp.priority.size = false ∧ ring = FaultRing.priority ∨
                Config.validSubmissionSize s.cp.priority.size = true ∧
                  Config.validSubmissionSize s.cp.normal.size = false ∧ ring = FaultRing.normal)) →
          s.fault.kinds.config = false →
          ∃ t, exec (.run true) s = .next t ∧ t.fault = faultAfter s.fault { noKinds with config := true } ring 0 ∧
            Evaluated s t ∧ { t with fault := s.fault, condition := s.condition, link := s.link } = s) ∧
        (Config.validCompletionSize s.comp.size = false ∨ Config.validSubmissionSize s.cp.priority.size = false ∨
            Config.validSubmissionSize s.cp.normal.size = false →
          s.fault.kinds.config = true → exec (.run true) s = .next s) ∧
        (Config.validCompletionSize s.comp.size = true → Config.validSubmissionSize s.cp.priority.size = true →
          Config.validSubmissionSize s.cp.normal.size = true → s.cp.state = .stopped →
          (s.cp.reserved = false → exec (.run true) s = .next { s with run := true, cp := { s.cp with state := .reserving } }) ∧
          (s.cp.reserved = true →
            exec (.run true) s = exec .takeDecision { s with run := true, cp := { s.cp with state := .looking } })) ∧
        (Config.validCompletionSize s.comp.size = true → Config.validSubmissionSize s.cp.priority.size = true →
          Config.validSubmissionSize s.cp.normal.size = true → (∃ r, InProgress s r) →
          exec (.run true) s = .next { s with run := true })))

/-- FETCH_LIMIT and TICK_DIVIDER (R94, R162, R163): stored and held; a divider of 0 is held as 1 and one above 16 as 16; the divider
in effect, and the expiry of every read in flight, stay. The limit is 8 µs a unit, and 0 means 256 units. -/
def Obligations.FetchLimitAndDividerWritesAreHeld : Prop :=
  (∀ (s : State) (v : Byte) (d : BitVec 5), s.inReset = none →
    exec (.fetchLimit v) s = .next { s with fetchLimit := v } ∧
    exec (.tickDivider d) s =
      .next { s with dividerHeld := if d = 0 then 1 else if 16 < d.toNat then 16 else d }) ∧
  (∀ v : Byte, fetchLimitMicros v = if v = 0 then 256 * 8 else v.toNat * 8)

/-- ENGINE_RESET (R167 with R23, R46, R69, R75, R88, R106, R119, R147, R149, R152, R159, R168): every block is emptied, the
configuration is kept, no message is sent, and RESETTING is set exactly if a tracker entry is busy; if none is, the held divider takes
effect and every configured clock starts in the same event. A 1 during RESETTING and a 0 have no effect. -/
def Obligations.EngineResetEmptiesThePart : Prop :=
  ∀ s : State, s.inReset = none →
    exec (.engineReset false) s = .next s ∧
    (s.resetting = true → exec (.engineReset true) s = .next s) ∧
    (s.resetting = false → ∃ t, exec (.engineReset true) s = .next t ∧
      t.run = false ∧ (t.resetting = true ↔ ∃ e : EntryId, s.tracker[e] ≠ none) ∧
      t.fault = { kinds := noKinds, ring := .none, index := 0 } ∧ t.condition = false ∧
      (∀ c : CtxId, t.jobs[c] = none) ∧ (∀ g : GroupId, t.lists[g] = []) ∧ t.endQueue = [] ∧ t.slotWait = [] ∧ t.eligible = [] ∧ t.holding = [] ∧
      (∀ i : SlotId, t.slots[i] = { s.slots[i] with state := .free }) ∧
      (∀ e : EntryId, t.tracker[e] = s.tracker[e].map fun r => { r with isVoid := true }) ∧ t.lastServed = 3 ∧
      (∀ g : GroupId, t.groups[g] = { GroupState.reset with
        clock := if ∃ e : EntryId, s.tracker[e] ≠ none then .stopped else initialClock s.configs[g] s.clock.tick }) ∧
      t.divider = (if ∃ e : EntryId, s.tracker[e] ≠ none then s.divider else s.dividerHeld) ∧ (∀ lane : LaneId, t.pulses[lane] = .none) ∧
      t.cp.state = .stopped ∧ t.cp.reserved = false ∧ t.cp.count = 0 ∧
      t.cp.priority = { s.cp.priority with producer := 0, consumer := 0 } ∧
      t.cp.normal = { s.cp.normal with producer := 0, consumer := 0 } ∧
      t.comp = { base := s.comp.base, size := s.comp.size, producer := 0, consumer := 0, lap := true, stopped := false,
                 times := [] } ∧
      t.configs = s.configs ∧ t.profiles = s.profiles ∧ t.lanes = s.lanes ∧ t.fetchLimit = s.fetchLimit ∧
      t.dividerHeld = s.dividerHeld ∧ t.intMod = s.intMod ∧ t.link = s.link ∧ t.inReset = s.inReset)

/-- RESETTING ends when the last VOID tracker entry frees, by data, error or expiry (R106, R168): the held divider takes effect and
every configured group's clock starts, and no slot, job or counter changes. An entry that is not the last one only frees,
by data, error or expiry. That an expiry moves the clock to its moment, or acts late where that has gone by, is the model's choice,
assumption 3, and `lateReads`, which then counts an answer more, is the model's own, assumption 22. -/
def Obligations.ResettingEndsWithLastVoidRead : Prop :=
  ∀ (s : State) (e : EntryId) (read : LineRead), s.resetting = true → s.tracker[e] = some read → read.isVoid = true →
    (∀ c t, c = .fetchErrorAnswer e ∨ (∃ data, c = .fetchDataAnswer e data) →
      s.clock.now ≤ read.expiry → (∃ d : EntryId, d ≠ e ∧ s.tracker[d] ≠ none) → t = { s with tracker := s.tracker.set e none } →
      exec c s = .next t) ∧
    ((∃ d : EntryId, d ≠ e ∧ s.tracker[d] ≠ none) → ∃ u, AtMoment read.expiry s u ∧
      exec (.fetchExpiry e) s = .next { u with tracker := s.tracker.set e none, lateReads := s.lateReads + 1 }) ∧
    (∀ c, c = .fetchErrorAnswer e ∨ (∃ data, c = .fetchDataAnswer e data) ∨ c = .fetchExpiry e →
      (c ≠ .fetchExpiry e → s.clock.now ≤ read.expiry) → (∀ d : EntryId, d ≠ e → s.tracker[d] = none) →
      ∃ t, exec c s = .next t ∧ t.resetting = false ∧ t.divider = s.dividerHeld ∧ (∀ d : EntryId, t.tracker[d] = none) ∧
        (∀ g : GroupId, t.groups[g] = { s.groups[g] with clock := initialClock s.configs[g] t.clock.tick }) ∧
        { t with resetting := s.resetting, divider := s.divider, tracker := s.tracker, groups := s.groups, clock := s.clock,
                 lateReads := s.lateReads } = s)

/-- FAULT_CLEAR (R166): each kind written as 1 leaves the set, the others stay; RING and INDEX are reset exactly when the set becomes
empty; the interrupt condition is evaluated; RUN, the Command Processor and the stop of posting stay as they are. -/
def Obligations.FaultClearRemovesWrittenKinds : Prop :=
  ∀ (s : State) (w : FaultKinds), s.inReset = none →
    ∃ t, exec (.faultClear w) s = .next t ∧
      (t.fault.kinds.ringRead = true ↔ s.fault.kinds.ringRead = true ∧ w.ringRead = false) ∧
      (t.fault.kinds.ringIndex = true ↔ s.fault.kinds.ringIndex = true ∧ w.ringIndex = false) ∧
      (t.fault.kinds.config = true ↔ s.fault.kinds.config = true ∧ w.config = false) ∧
      (t.fault.kinds.compIndex = true ↔ s.fault.kinds.compIndex = true ∧ w.compIndex = false) ∧
      (t.fault.kinds = noKinds → t.fault.ring = .none ∧ t.fault.index = 0) ∧
      (t.fault.kinds ≠ noKinds → t.fault.ring = s.fault.ring ∧ t.fault.index = s.fault.index) ∧
      Evaluated s t ∧ { t with fault := s.fault, condition := s.condition, link := s.link } = s

/-- A fault handed to Device Control (R165): a kind already in the set is no change; a new one joins it, takes RING and INDEX if the set
was empty, and makes the condition be evaluated (R158, R159). -/
def Obligations.FaultIsRecordedWithFirstRingAndIndex : Prop :=
  ∀ (s : State) (kind : FaultKinds) (ring : FaultRing) (index : Short), kind ≠ noKinds →
    (joinKinds s.fault.kinds kind = s.fault.kinds → handFault kind ring index s = s) ∧
    (joinKinds s.fault.kinds kind ≠ s.fault.kinds →
      (handFault kind ring index s).fault = faultAfter s.fault kind ring index ∧
      Evaluated s (handFault kind ring index s) ∧ (handFault kind ring index s).condition = true ∧
      { handFault kind ring index s with fault := s.fault, condition := s.condition, link := s.link } = s)

/-- AGE_EXPIRY (R158, R159): with AGE not 0 and an unreleased entry, at the moment the oldest has waited AGE µs, the condition is found
true, with one message if it was false; with AGE 0 or no unreleased entry the expiry is void. That the expiry moves the clock to its
moment, or acts late where that has gone by, is the model's choice, assumption 3. -/
def Obligations.AgeExpiryRaisesCondition : Prop :=
  ∀ s : State,
    (s.comp.times = [] ∨ s.intMod.age = 0 → exec .ageExpiry s = .next s) ∧
    (∀ w rest, s.comp.times = w :: rest → s.intMod.age ≠ 0 →
      ∃ t, exec .ageExpiry s = .next t ∧ t.condition = true ∧ Evaluated s t ∧
        t.clock.now = max s.clock.now (w + s.intMod.age.toNat * s.clock.mhz) ∧
        { t with clock := s.clock, condition := s.condition, link := s.link } = s)

/-! ## Ring registers and the interrupt's settings (R108, R147, R150, R157, R160) -/

/-- SUBMISSION_BASE, SUBMISSION_SIZE, PRODUCER, COMPLETION_BASE, COMPLETION_SIZE (R108, R147): BASE and SIZE are taken only while RUN is
0 and no command is in progress; a BASE is rounded down; a SIZE sets both indices to 0 (and, for the completion ring, LAP to 1 and
abandons the unreleased entries); PRODUCER is always stored as written and, in LOOKING, makes a take decision (R111). -/
def Obligations.RingRegisterWritesAreTakenWhileStopped : Prop :=
  ∀ s : State, s.inReset = none →
    (¬ RingsOpen s → ∀ ring half v size,
      exec (.submissionBase ring half v) s = .next s ∧ exec (.submissionSize ring size) s = .next s ∧
      exec (.completionBase half v) s = .next s ∧ exec (.completionSize size) s = .next s) ∧
    (RingsOpen s →
      (∀ ring half v, ∃ b : Addr,
        b.toNat = (match half with
          | .low => ((regsOf ring s).base.extractLsb' 32 32 ++ v).toNat
          | .high => (v ++ (regsOf ring s).base.extractLsb' 0 32).toNat) / 64 * 64 ∧
        exec (.submissionBase ring half v) s = .next (withRegs ring { regsOf ring s with base := b } s)) ∧
      (∀ ring size, exec (.submissionSize ring size) s =
        .next (withRegs ring { regsOf ring s with size := size, producer := 0, consumer := 0 } s)) ∧
      (∀ half v, ∃ b : Addr,
        b.toNat = (match half with
          | .low => (s.comp.base.extractLsb' 32 32 ++ v).toNat
          | .high => (v ++ s.comp.base.extractLsb' 0 32).toNat) / 32 * 32 ∧
        exec (.completionBase half v) s = .next { s with comp := { s.comp with base := b } }) ∧
      (∀ size, ∃ t, exec (.completionSize size) s = .next t ∧ Evaluated s t ∧
        t.comp = { s.comp with size := size, producer := 0, consumer := 0, lap := true, times := [] } ∧
        { t with comp := s.comp, condition := s.condition, link := s.link } = s)) ∧
    (∀ ring v,
      (s.cp.state ≠ .looking → exec (.producer ring v) s = .next (withRegs ring { regsOf ring s with producer := v } s)) ∧
      (s.cp.state = .looking →
        exec (.producer ring v) s = exec .takeDecision (withRegs ring { regsOf ring s with producer := v } s)))

/-- CONSUMER (R150): its four rows; no record is written while posting is stopped, and only an engine reset or a device
reset ends the stop. -/
def Obligations.ConsumerWriteReleasesOrFaults : Prop :=
  (∀ (s : State) (v : Short), s.inReset = none → CompletionOk s →
    (s.comp.stopped = true → exec (.consumer v) s = .next s) ∧
    (s.comp.stopped = false → Config.validCompletionSize s.comp.size = false → v = 0 →
      ∃ t, exec (.consumer v) s = .next t ∧ t.comp = s.comp ∧ Evaluated s t ∧
        { t with condition := s.condition, link := s.link } = s) ∧
    (s.comp.stopped = false → Config.validCompletionSize s.comp.size = true → v.toNat < s.comp.size.toNat →
      ((v.toNat : Int) - s.comp.consumer.toNat) % s.comp.size.toNat ≤ (unreleased s.comp : Int) →
      ∃ t, exec (.consumer v) s = .next t ∧ Evaluated s t ∧
        t.comp = { s.comp with
          consumer := v
          times := s.comp.times.drop (((v.toNat : Int) - s.comp.consumer.toNat) % s.comp.size.toNat).toNat } ∧
        { t with comp := s.comp, condition := s.condition, link := s.link } = s) ∧
    (s.comp.stopped = false →
      ¬ (Config.validCompletionSize s.comp.size = false ∧ v = 0) →
      ¬ (Config.validCompletionSize s.comp.size = true ∧ v.toNat < s.comp.size.toNat ∧
          ((v.toNat : Int) - s.comp.consumer.toNat) % s.comp.size.toNat ≤ (unreleased s.comp : Int)) →
      ∃ t, exec (.consumer v) s = .next t ∧ t.comp = { s.comp with stopped := true } ∧
        (s.fault.kinds.compIndex = false →
          t.fault = faultAfter s.fault { noKinds with compIndex := true } .completion v ∧ Evaluated s t) ∧
        (s.fault.kinds.compIndex = true → t.fault = s.fault ∧ t.condition = s.condition ∧ t.link = s.link) ∧
        { t with comp := s.comp, fault := s.fault, condition := s.condition, link := s.link } = s)) ∧
  (∀ s : State, s.comp.stopped = true → exec .completionWrite s = .next s) ∧
  (∀ (c : Instr) (s t : State), s.comp.stopped = true → exec c s = .next t →
    t.comp.stopped = true ∨ c = .engineReset true ∨ c = .deviceReset) ∧
  (∀ s t : State, exec .deviceReset s = .next t ∨ s.inReset = none ∧ s.resetting = false ∧ exec (.engineReset true) s = .next t →
    t.comp.stopped = false)

/-- INT_MOD (R157): reset values, the write with its evaluation, THRESHOLD 0 stored as 1, an engine reset keeps both settings, a
THRESHOLD above SIZE − 1 is never met by the count, and the age test does not depend on the tick divider. -/
def Obligations.IntModWriteStoresAndEvaluates : Prop :=
  (State.reset.intMod.threshold = 1 ∧ State.reset.intMod.age = 0) ∧
  (∀ (s : State) (threshold : Byte) (age : Short), s.inReset = none →
    ∃ t, exec (.intMod threshold age) s = .next t ∧
      t.intMod = { threshold := if threshold = 0 then 1 else threshold, age := age } ∧ Evaluated s t ∧
      { t with intMod := s.intMod, condition := s.condition, link := s.link } = s) ∧
  (∀ (s t : State) (v : Bool), exec (.engineReset v) s = .next t → t.intMod = s.intMod) ∧
  (∀ s : State, CompletionOk s → s.comp.size.toNat - 1 < s.intMod.threshold.toNat →
    1 ≤ s.intMod.threshold.toNat → Condition s →
    (s.intMod.age ≠ 0 ∧ ∃ w ∈ s.comp.times.head?, w + s.intMod.age.toNat * s.clock.mhz ≤ s.clock.now) ∨
      s.fault.kinds ≠ noKinds) ∧
  (∀ (s : State) (d : BitVec 5), oldestAged { s with divider := d } = oldestAged s)

/-- The register window (R160, R162, R164, R165, 10.5). Writes of IDENT, STATUS, a read-only index or unused bits change nothing, in any
state. A host write of a word is the sequence of the commands of its fields (inferred, assumption 9): a
word that packs SIZE with an index is a write of SIZE, one with an index alone uses its low half, and a write of CONTROL stores
FETCH_LIMIT and TICK_DIVIDER first and ignores its RUN beside ENGINE_RESET 1. Reads give the fields, with every unused bit 0: STATUS
shows whether the Command Processor is not STOPPED, RESETTING, a fault pending, the interrupt condition and the number of live
contexts. -/
def Obligations.RegisterWindowReadsAndWrites : Prop :=
  (∀ (register : PlainRegister) (v : Word) (s : State), exec (.registerWrite register v) s = .next s) ∧
  (∀ w : Word,
    windowWrite 0x00 w = [.registerWrite .ident w] ∧
    windowWrite 0x04 w = [.fetchLimit (w.extractLsb' 8 8), .tickDivider (w.extractLsb' 16 5),
      if w.getLsbD 1 = true then .engineReset true else .run (w.getLsbD 0)] ∧
    windowWrite 0x08 w = [.registerWrite .status w, .faultClear (kindsWritten w)] ∧
    windowWrite 0x0C w = [.intMod (w.extractLsb' 0 8) (w.extractLsb' 16 16)] ∧
    windowWrite 0x10 w = [.submissionBase .priority .low w] ∧ windowWrite 0x14 w = [.submissionBase .priority .high w] ∧
    windowWrite 0x18 w = [.submissionSize .priority (w.extractLsb' 0 16), .registerWrite (.submissionConsumer .priority) w] ∧
    windowWrite 0x1C w = [.producer .priority (w.extractLsb' 0 16)] ∧
    windowWrite 0x20 w = [.submissionBase .normal .low w] ∧ windowWrite 0x24 w = [.submissionBase .normal .high w] ∧
    windowWrite 0x28 w = [.submissionSize .normal (w.extractLsb' 0 16), .registerWrite (.submissionConsumer .normal) w] ∧
    windowWrite 0x2C w = [.producer .normal (w.extractLsb' 0 16)] ∧
    windowWrite 0x30 w = [.completionBase .low w] ∧ windowWrite 0x34 w = [.completionBase .high w] ∧
    windowWrite 0x38 w = [.completionSize (w.extractLsb' 0 16), .registerWrite .completionProducer w] ∧
    windowWrite 0x3C w = [.consumer (w.extractLsb' 0 16)]) ∧
  (∀ (s : State) (w : Word), s.inReset = none → ∃ u,
    u = { s with fetchLimit := w.extractLsb' 8 8, dividerHeld := dividerAfter (w.extractLsb' 16 5) } ∧
    (w.getLsbD 1 = true → s.resetting = true → Runs (windowWrite 0x04 w) s u) ∧
    (w.getLsbD 1 = true → s.resetting = false → ∃ t, Runs (windowWrite 0x04 w) s t ∧ exec (.engineReset true) u = .next t ∧
      t.run = false ∧ t.fetchLimit = u.fetchLimit ∧ t.dividerHeld = u.dividerHeld) ∧
    (w.getLsbD 1 = false → ∃ t, Runs (windowWrite 0x04 w) s t ∧ exec (.run (w.getLsbD 0)) u = .next t)) ∧
  (∀ (s : State) (w : Word), s.inReset = none → ∃ t, Runs (windowWrite 0x08 w) s t ∧
    exec (.faultClear (kindsWritten w)) s = .next t) ∧
  (∀ s : State, s.inReset = none →
    (∃ w, readWindow s 0x04 = some w ∧ w.getLsbD 0 = s.run ∧ w.extractLsb' 1 7 = 0 ∧ w.extractLsb' 8 8 = s.fetchLimit ∧
      w.extractLsb' 16 5 = s.dividerHeld ∧ w.extractLsb' 21 11 = 0) ∧
    (∃ w, readWindow s 0x08 = some w ∧ (w.getLsbD 0 = true ↔ s.cp.state ≠ .stopped) ∧ w.getLsbD 1 = s.resetting ∧
      (w.getLsbD 2 = true ↔ s.fault.kinds ≠ noKinds) ∧ w.getLsbD 3 = s.condition ∧
      (w.extractLsb' 4 5).toNat = ((List.finRange 16).filter fun c => s.jobs[c].isSome).length ∧ w.getLsbD 9 = false ∧
      w.extractLsb' 10 2 = ringNumber s.fault.ring ∧ w.getLsbD 12 = s.fault.kinds.ringRead ∧
      w.getLsbD 13 = s.fault.kinds.ringIndex ∧ w.getLsbD 14 = s.fault.kinds.config ∧ w.getLsbD 15 = s.fault.kinds.compIndex ∧
      w.extractLsb' 16 16 = s.fault.index) ∧
    (∃ w, readWindow s 0x0C = some w ∧ w.extractLsb' 0 8 = s.intMod.threshold ∧ w.extractLsb' 8 8 = 0 ∧
      w.extractLsb' 16 16 = s.intMod.age) ∧
    (∃ low high, readWindow s 0x10 = some low ∧ readWindow s 0x14 = some high ∧ s.cp.priority.base = high ++ low) ∧
    (∃ low high, readWindow s 0x20 = some low ∧ readWindow s 0x24 = some high ∧ s.cp.normal.base = high ++ low) ∧
    (∃ low high, readWindow s 0x30 = some low ∧ readWindow s 0x34 = some high ∧ s.comp.base = high ++ low) ∧
    (∃ w, readWindow s 0x18 = some w ∧ w.extractLsb' 0 16 = s.cp.priority.size ∧ w.extractLsb' 16 16 = s.cp.priority.consumer) ∧
    (∃ w, readWindow s 0x28 = some w ∧ w.extractLsb' 0 16 = s.cp.normal.size ∧ w.extractLsb' 16 16 = s.cp.normal.consumer) ∧
    (∃ w, readWindow s 0x38 = some w ∧ w.extractLsb' 0 16 = s.comp.size ∧ w.extractLsb' 16 16 = s.comp.producer) ∧
    readWindow s 0x1C = some (s.cp.priority.producer.setWidth 32) ∧
    readWindow s 0x2C = some (s.cp.normal.producer.setWidth 32) ∧
    readWindow s 0x3C = some (s.comp.consumer.setWidth 32))

/-! ## Line clocks (3.4) -/

/-- TRIGGER that is not admitted (R56): an edge that is no trigger, or a trigger of a clock that is neither WAIT_EDGE nor DELAYING, has
no effect; during a countdown it counts in TRIG_BUSY, also when it is too soon; in WAIT_EDGE, too soon, it counts in TRIG_FAST.
Nothing else changes but the time (assumption 3). -/
def Obligations.TriggersDroppedAreOnlyCounted : Prop :=
  ∀ (s : State) (g : GroupId) (edge : Edge) (tick : Nat), ∃ u, AtTick tick s u ∧
    (¬ IsTrigger s.configs[g] edge → exec (.trigger g edge tick) s = .next u) ∧
    (s.groups[g].clock ≠ .waitEdge → (∀ due, s.groups[g].clock ≠ .delaying due) → exec (.trigger g edge tick) s = .next u) ∧
    (IsTrigger s.configs[g] edge → (∃ due, s.groups[g].clock = .delaying due) →
      exec (.trigger g edge tick) s = .next (withGroup g { s.groups[g] with
        counters := { s.groups[g].counters with trigBusy := counted s.groups[g].counters.trigBusy } } u)) ∧
    (IsTrigger s.configs[g] edge → s.groups[g].clock = .waitEdge → TooSoon s.configs[g] s.groups[g] u.clock.tick →
      exec (.trigger g edge tick) s = .next (withGroup g { s.groups[g] with
        counters := { s.groups[g].counters with trigFast := counted s.groups[g].counters.trigFast } } u))

/-- TRIGGER that is accepted (R56, R57, R60): counted, measured against the last accepted time, remembered; with a DELAY the
countdown runs from the tick of the trigger; with DELAY 0 the line event is produced in that tick and the clock stays in WAIT_EDGE.
That the trigger moves the clock to its tick, or acts at the present one where its own has gone by, is the model's choice,
assumption 3. -/
def Obligations.TriggerAcceptedStartsCountdown : Prop :=
  ∀ (s : State) (g : GroupId) (edge : Edge) (tick : Nat), IsTrigger s.configs[g] edge → s.groups[g].clock = .waitEdge →
    ¬ TooSoon s.configs[g] s.groups[g] (max s.clock.tick tick) →
    ∃ u x, AtTick tick s u ∧
      (s.configs[g].delay ≠ 0 →
        Accepted u.clock.tick (.delaying (u.clock.tick + s.configs[g].delay.toNat)) s.groups[g] x ∧
        exec (.trigger g edge tick) s = .next (withGroup g x u)) ∧
      (s.configs[g].delay = 0 →
        Accepted u.clock.tick .waitEdge s.groups[g] x ∧
        exec (.trigger g edge tick) s = .next (produceLineEvent g (withGroup g x u)))

/-- PERIOD_END (R55, R61): at the end of a period the next one begins at that very tick, and the group's line event is produced; the
event is counted once, no trigger counter, countdown or measurement of the group changes, and nothing outside the reach of line
events does. That the command moves the clock to that tick, or acts late where it has gone by, is the model's choice, assumption 3.
The end of a period of a clock that is not COUNTING is no event (assumption 4). -/
def Obligations.PeriodEndBeginsNextPeriod : Prop :=
  (∀ (s : State) (g : GroupId) (start : Nat), s.groups[g].clock = .counting start →
    ∃ u t, AtTick (start + s.configs[g].period.toNat) s u ∧
      t = produceLineEvent g
        (withGroup g { s.groups[g] with clock := .counting (start + s.configs[g].period.toNat) } u) ∧
      exec (.periodEnd g) s = .next t ∧
      SameTriggers { s.groups[g] with clock := .counting (start + s.configs[g].period.toNat) } t.groups[g] ∧
      t.groups[g].counters.lineEvents = counted s.groups[g].counters.lineEvents ∧
      t.clock.tick = max s.clock.tick (start + s.configs[g].period.toNat) ∧ EventFrame s t) ∧
  (∀ (s : State) (g : GroupId), (∀ start, s.groups[g].clock ≠ .counting start) → exec (.periodEnd g) s = .next s)

/-- COUNTDOWN_EXPIRY (R57, R58, R61): the clock returns to WAIT_EDGE or WAIT_LEADER and the group's line event is produced, and counted
once; no trigger is counted. That the command moves the clock to the tick of the expiry, or acts late where it has gone by, is the
model's choice, assumption 3. The expiry of a countdown that does not run is no event (assumption 4). -/
def Obligations.CountdownExpiryReturnsToWaiting : Prop :=
  (∀ (s : State) (g : GroupId) (due : Nat), s.groups[g].clock = .delaying due →
    hasSource s.configs[g] .external = true ∨ hasSource s.configs[g] .follow = true →
    ∃ u t, AtTick due s u ∧
      t = produceLineEvent g
        (withGroup g { s.groups[g] with clock := if s.configs[g].source = 2 then .waitLeader else .waitEdge } u) ∧
      exec (.countdownExpiry g) s = .next t ∧
      (LeadersOk s →
        SameTriggers { s.groups[g] with clock := if s.configs[g].source = 2 then .waitLeader else .waitEdge } t.groups[g] ∧
        t.groups[g].counters.lineEvents = counted s.groups[g].counters.lineEvents) ∧
      t.clock.tick = max s.clock.tick due ∧ EventFrame s t) ∧
  (∀ (s : State) (g : GroupId), (∀ due, s.groups[g].clock ≠ .delaying due) → exec (.countdownExpiry g) s = .next s)

/-- A group's line event (R58, R59, R61, R62, R64): counted in LINE_EVENTS; under NONE it is delivered; under PENDING the hold state
becomes HELD; under PENDING and HELD it is counted in HELD_EVENTS_G and reaches nothing else of the group. With no follower that is
all. With followers, in every hold state, the event then reaches each group that follows directly, and a follower with DELAY 0 has
its own line event at once; that the group comes first and its followers in the order of their numbers is the model's choice,
assumption 11. -/
def Obligations.LineEventIsDeliveredOrKept : Prop :=
  ∀ (s : State) (g : GroupId), ∃ v,
    (s.groups[g].hold = .none →
      v = deliver g (withGroup g { s.groups[g] with
        counters := { s.groups[g].counters with lineEvents := counted s.groups[g].counters.lineEvents } } s)) ∧
    (s.groups[g].hold ≠ .none →
      v = withGroup g { s.groups[g] with
        hold := .held
        counters := { s.groups[g].counters with
          lineEvents := counted s.groups[g].counters.lineEvents
          heldEvents := counted s.groups[g].counters.heldEvents } } s) ∧
    (NoFollower s g → produceLineEvent g s = v) ∧
    (LeadersOk s → produceLineEvent g s =
      ([0, 1, 2, 3] : List GroupId).foldl (fun t f => if followsDirect s.configs f g = true then followerTakes f t else t) v)

/-- A leader's line event at a direct follower (R58, R59, R60): accepted in WAIT_LEADER, where it starts the countdown of DELAY from the
leader's tick, or, with DELAY 0, is followed by the follower's own line event at once; dropped and counted in TRIG_BUSY while
DELAYING; not taken while STOPPED. The leader's hold state and jobs make no difference. -/
def Obligations.FollowerTakesLeaderEvent : Prop :=
  ∀ (s : State) (g f : GroupId), LeadersOk s → followsDirect s.configs f g = true →
    ∃ t, produceLineEvent g s = t ∧
      (s.groups[f].clock = .waitLeader →
        ∃ x, Accepted s.clock.tick
            (if s.configs[f].delay = 0 then .waitLeader else .delaying (s.clock.tick + s.configs[f].delay.toNat)) s.groups[f] x ∧
          SameTriggers x t.groups[f] ∧
          t.groups[f].counters.lineEvents =
            if s.configs[f].delay = 0 then counted s.groups[f].counters.lineEvents else s.groups[f].counters.lineEvents) ∧
      ((∃ due, s.groups[f].clock = .delaying due) →
        SameTriggers { s.groups[f] with
          counters := { s.groups[f].counters with trigBusy := counted s.groups[f].counters.trigBusy } } t.groups[f] ∧
        t.groups[f].counters.lineEvents = s.groups[f].counters.lineEvents) ∧
      (s.groups[f].clock = .stopped →
        SameTriggers s.groups[f] t.groups[f] ∧ t.groups[f].counters.lineEvents = s.groups[f].counters.lineEvents)

/-! ## What a delivered line event does (1.4, 1.5, 2.4, 2.5, 4.3 to 4.6) -/

/-- R10, R19, R20, R32, R33, R76: a delivered line event at which the RUNNING job's line is READY. The FIRING slot is released, the
line's slot becomes FIRING, the cut lanes count in CLIPPED, LINES_FIRED and the fire position grow, the group's latched profile is
compared, a MARK is offered when due; after its last line the job is FINISHING if a pulse was formed and ENDED if not. -/
def Obligations.DeliveredEventFiresReadyLine : Prop :=
  ∀ (s : State) (g : GroupId) (c : CtxId) (rest : List CtxId) (j : Job) (i : SlotId), Fires s g c rest j i →
    ∃ k, (deliver g s).jobs[c] = some k ∧ SameJob j k ∧ k.firePos = j.firePos + 1 ∧ k.linesFired = counted j.linesFired ∧
      k.clipped = clippedAfter s g c j ∧ k.linesSkipped = j.linesSkipped ∧ k.heldEvents = j.heldEvents ∧
      k.noticesLost = (if MarkDue j ∧ roomOf s = 0 then counted j.noticesLost else j.noticesLost) ∧
      (¬ LastLine j → k.state = .running) ∧
      (LastLine j → (∃ lane, formed s g c i j.profile lane ≠ .none) → k.state = .finishing) ∧
      (LastLine j → (∀ lane, formed s g c i j.profile lane = .none) → k.state = .ended .ended ∧ NoRing (deliver g s) c) ∧
      (¬ LastLine j ∨ (∃ lane, formed s g c i j.profile lane ≠ .none) →
        (∀ n : SlotId, (deliver g s).slots[n].levels = s.slots[n].levels ∧
          (deliver g s).slots[n].state =
            if n = i then .firing c (j.firePos % j.depth) j.firePos else unfired c s.slots[n].state) ∧
        (deliver g s).groups[g] = { s.groups[g] with
          latched := some { number := j.profile, generation := s.profiles[j.profile].generation,
                            entries := firedEntries s g j.profile } } ∧
        (∀ h : GroupId, h ≠ g → (deliver g s).groups[h] = s.groups[h]) ∧
        (deliver g s).holding =
          s.holding ++ (if MarkDue j ∧ roomOf s ≠ 0 then [CompRecord.mark j.tag (counted j.linesFired)] else []) ∧
        (deliver g s).lists = s.lists ∧ (deliver g s).endQueue = s.endQueue ∧ (deliver g s).slotWait = s.slotWait ∧
        (deliver g s).eligible = s.eligible ∧ LineFrame s (deliver g s))

/-- R72, R79, R80, R82: the pulses of a fired line. Every pulse of the span is cut first; then each enabled lane whose level selects an
entry with WIDTH not 0 is SCHEDULED from DELAY + TRIM, raised to 1, after the event's tick, for WIDTH ticks, and every other lane of
the span has no pulse; lanes outside the span keep theirs. The effective delay is 1 to 4222. -/
def Obligations.PulsesFormedFromLatchedEntries : Prop :=
  (∀ (s : State) (g : GroupId) (c : CtxId) (rest : List CtxId) (j : Job) (i : SlotId), Fires s g c rest j i →
    ¬ LastLine j ∨ (∃ lane, formed s g c i j.profile lane ≠ .none) →
    ∀ lane : LaneId, (deliver g s).pulses[lane] =
      if inSpan s.configs[g] lane.val = true then formed s g c i j.profile lane else s.pulses[lane]) ∧
  (∀ (delay : Short) (trim : BitVec 8), delay.toNat ≤ 4095 →
    1 ≤ effectiveDelay delay trim ∧ effectiveDelay delay trim ≤ 4222)

/-- R11, R36 to R39, R91: a delivered line event at which the RUNNING job's line is not READY. HOLD, and SKIP with nothing supplied to
skip, count one HELD_EVENTS and leave the line; SKIP passes the line, makes a FILLING slot STALE and otherwise moves the cursor past
the line and settles it, and ends a closed job whose lines are all passed; STOP ends the job UNDERRUN. The cut counts in CLIPPED, and
where no other job fires at the event every pulse record of the span is NONE after it (R82). -/
def Obligations.UnderrunFollowsPolicy : Prop :=
  ∀ (s : State) (g : GroupId) (c : CtxId) (rest : List CtxId) (j : Job), AtFront s g c rest j → j.state = .running →
    NotReady s c j →
    ∃ t k, deliver g s = t ∧ t.jobs[c] = some k ∧ SameJob j k ∧ k.clipped = clippedAfter s g c j ∧ k.linesFired = j.linesFired ∧
      (j.policy = .hold ∨ j.policy = .skip ∧ j.supplied ≤ j.firePos →
        k = { j with heldEvents := counted j.heldEvents, clipped := clippedAfter s g c j } ∧
        (∀ n : SlotId, t.slots[n] = { s.slots[n] with state := unfired c s.slots[n].state }) ∧
        t.lists = s.lists ∧ t.groups = s.groups ∧ t.holding = s.holding ∧ t.endQueue = s.endQueue ∧ t.slotWait = s.slotWait) ∧
      (j.policy = .skip → j.firePos < j.supplied →
        k.firePos = j.firePos + 1 ∧ k.linesSkipped = counted j.linesSkipped ∧ k.heldEvents = j.heldEvents ∧
        (j.isOpen = false → j.firePos + 1 = j.supplied → k.state = .ended .ended ∧ NoRing t c) ∧
        (¬ LastLine j →
          (∀ i n, slotAt s c (j.firePos % j.depth) = some i → s.slots[i].state = .filling c (j.firePos % j.depth) n →
            k = { j with firePos := j.firePos + 1, linesSkipped := counted j.linesSkipped, clipped := clippedAfter s g c j } ∧
            (∀ x : SlotId, t.slots[x] = { s.slots[x] with
              state := if x = i then .stale c (j.firePos % j.depth) n else unfired c s.slots[x].state }) ∧
            t.holding = s.holding) ∧
          ((∀ i n, slotAt s c (j.firePos % j.depth) = some i → s.slots[i].state ≠ .filling c (j.firePos % j.depth) n) →
            k = settledJob j.firePos (roomOf s) { j with
              firePos := j.firePos + 1, linesSkipped := counted j.linesSkipped, clipped := clippedAfter s g c j,
              cursor := max j.cursor (j.firePos + 1) } ∧
            (∀ x : SlotId, t.slots[x] = { s.slots[x] with state := unfired c s.slots[x].state }) ∧
            t.holding = s.holding ++ settledNotices j.firePos (roomOf s) j) ∧
          t.lists = s.lists ∧ t.groups = s.groups ∧ t.endQueue = s.endQueue ∧ t.slotWait = s.slotWait)) ∧
      (j.policy = .stop → k.state = .ended .underrun ∧ k.firePos = j.firePos ∧ k.linesSkipped = j.linesSkipped ∧
        k.heldEvents = j.heldEvents ∧ NoRing t c) ∧
      ((∀ d m, t.lists[g].head? = some d → t.jobs[d] = some m → FirstClass m → d = c) →
        ∀ lane : LaneId, inSpan s.configs[g] lane.val = true → t.pulses[lane] = .none) ∧
      (∀ lane : LaneId, inSpan s.configs[g] lane.val = false → t.pulses[lane] = s.pulses[lane]) ∧ LineFrame s t

/-- R12 to R15: a delivered line event at which the front job is FINISHING. Its pulses are cut and counted, it ends ENDED and gives up
its ring and its place; a next job that is ARMED starts at the same event and fires its line 0, unless the group is held or its list
holds a firing job; a closed job of one line that starts is FINISHING, or ENDED if no pulse was formed. With no next job, or one
that does not start because it is not ARMED or the group is held, the event is idle and the span has no pulse. An ARMED job at the
front starts in the same way. A job that starts is one of the group, as every job in its list is (R5). -/
def Obligations.HandoverAtLineEvent : Prop :=
  ∀ (s : State) (g : GroupId) (c : CtxId) (rest : List CtxId) (j : Job), AtFront s g c rest j →
    (j.state = .finishing →
      (∃ k, (deliver g s).jobs[c] = some k ∧ SameJob j k ∧ k.state = .ended .ended ∧ k.clipped = clippedAfter s g c j ∧
        k.linesFired = j.linesFired ∧ k.linesSkipped = j.linesSkipped ∧ k.heldEvents = j.heldEvents ∧
        k.noticesLost = j.noticesLost) ∧
      NoRing (deliver g s) c ∧
      (rest = [] → (deliver g s).lists[g] = [] ∧
        (deliver g s).groups[g].counters.idleEvents = counted s.groups[g].counters.idleEvents ∧
        (∀ lane : LaneId, (deliver g s).pulses[lane] = cutPulse s g lane)) ∧
      (∀ d more m i n, rest = d :: more → d ∉ more → s.jobs[d] = some m → m.group = g → m.state = .armed →
        d ∉ s.slotWait → s.groups[g].hold = .none → (∀ e ∈ more, ∀ x, s.jobs[e] = some x → ¬ FirstClass x) →
        slotAt s d (m.firePos % m.depth) = some i → s.slots[i].state = .ready d (m.firePos % m.depth) n →
        Started s (deliver g s) g d m i rest) ∧
      (∀ d more m, rest = d :: more → d ∉ more → s.jobs[d] = some m →
        m.state = .primed ∧ d ∉ s.slotWait ∨ m.state = .waiting ∧ NoRing s d ∨
          m.state = .armed ∧ d ∉ s.slotWait ∧ s.groups[g].hold ≠ .none →
        (∀ e ∈ more, ∀ x, s.jobs[e] = some x → ¬ FirstClass x) →
        (∃ k, (deliver g s).jobs[d] = some k ∧ SameJob m k ∧ ¬ FirstClass k ∧ k.firePos = m.firePos ∧
          k.linesFired = m.linesFired) ∧
        (deliver g s).lists[g] = rest ∧
        (deliver g s).groups[g].counters =
          { s.groups[g].counters with idleEvents := counted s.groups[g].counters.idleEvents } ∧
        (∀ lane : LaneId, (deliver g s).pulses[lane] = cutPulse s g lane))) ∧
    (∀ i n, j.state = .armed → s.groups[g].hold = .none →
      (∀ e ∈ rest, ∀ x, s.jobs[e] = some x → ¬ FirstClass x) →
      slotAt s c (j.firePos % j.depth) = some i → s.slots[i].state = .ready c (j.firePos % j.depth) n →
      Started s (deliver g s) g c j i (c :: rest)) ∧
    LineFrame s (deliver g s)

/-- R14, R63, R82: a delivered line event that finds no job RUNNING and none to start, with the list empty or its front job WAITING or
PRIMED: the group counts it as idle, any pulse of the span is cut, and nothing else changes but CLIPPED of the pulses' jobs. -/
def Obligations.IdleEventOnlyCutsAndCounts : Prop :=
  ∀ (s : State) (g : GroupId),
    (s.lists[g] = [] ∨ ∃ c rest j, AtFront s g c rest j ∧ (j.state = .waiting ∨ j.state = .primed) ∧
      ∀ d ∈ rest, ∀ x, s.jobs[d] = some x → x.state ≠ .running) →
    ∃ t, deliver g s = t ∧
      t.groups[g] = { s.groups[g] with
        counters := { s.groups[g].counters with idleEvents := counted s.groups[g].counters.idleEvents } } ∧
      (∀ h : GroupId, h ≠ g → t.groups[h] = s.groups[h]) ∧ (∀ lane : LaneId, t.pulses[lane] = cutPulse s g lane) ∧
      (∀ (c : CtxId) (j : Job), s.jobs[c] = some j → (∀ st, j.state ≠ .ended st) →
        t.jobs[c] = some { j with clipped := clippedAfter s g c j }) ∧
      (∀ (c : CtxId) (j : Job) st, s.jobs[c] = some j → j.state = .ended st → t.jobs[c] = some j) ∧
      (∀ c : CtxId, s.jobs[c] = none → t.jobs[c] = none) ∧
      { t with groups := s.groups, jobs := s.jobs, pulses := s.pulses } = s

/-- PULSE_START and PULSE_END (R13, R72, R79, R81): a SCHEDULED pulse becomes ACTIVE at its start tick and an ACTIVE one NONE at its end
tick; the end of the last pulse of a group ends the FINISHING job that formed it, uncounted. Outside a device reset a lane is at its
active level, high or low by POLARITY, while its pulse is ACTIVE and at the other level in every other case. A start or end of a
pulse that is not there is no event (assumption 4). That a start or end taken after its tick acts at the present one is the model's
choice, assumption 3. -/
def Obligations.PulsesStartAndEndAtTheirTicks : Prop :=
  (∀ (s : State) (lane : LaneId), s.inReset = none →
    ((∃ a b g c, s.pulses[lane] = .active a b g c) → laneLevel s lane = decide (s.lanes[lane].polarity = .activeHigh)) ∧
    ((∀ a b g c, s.pulses[lane] ≠ .active a b g c) → laneLevel s lane = decide (s.lanes[lane].polarity = .activeLow))) ∧
  (∀ (s : State) (lane : LaneId) a b g c, s.pulses[lane] = .scheduled a b g c →
    ∃ u, AtTick a s u ∧ exec (.pulseStart lane) s = .next (withPulse lane (.active a b g c) u)) ∧
  (∀ (s : State) (lane : LaneId), (∀ a b g c, s.pulses[lane] ≠ .scheduled a b g c) → exec (.pulseStart lane) s = .next s) ∧
  (∀ (s : State) (lane : LaneId), (∀ a b g c, s.pulses[lane] ≠ .active a b g c) → exec (.pulseEnd lane) s = .next s) ∧
  (∀ (s : State) (lane : LaneId) a b g c, s.pulses[lane] = .active a b g c →
    ∃ u, AtTick b s u ∧
      ((∃ other, other ≠ lane ∧ ∃ d, pulseJob s.pulses[other] = some (g, d)) ∨ (∀ j, s.jobs[c] = some j → j.state ≠ .finishing) →
        exec (.pulseEnd lane) s = .next (withPulse lane .none u)) ∧
      ((∀ other, other ≠ lane → ∀ d, pulseJob s.pulses[other] ≠ some (g, d)) → ∀ j, s.jobs[c] = some j → j.state = .finishing →
        ∃ t k, exec (.pulseEnd lane) s = .next t ∧ t.jobs[c] = some k ∧ k.state = .ended .ended ∧ SameJob j k ∧
          k.clipped = j.clipped ∧ k.linesFired = j.linesFired ∧ NoRing t c ∧ c ∉ t.lists[j.group] ∧
          t.pulses = s.pulses.set lane .none ∧ LineFrame u t ∧ JobEnds (withPulse lane .none u) t c j .ended))

/-! ## Slots and line reads (2.7, 5.2 to 5.6) -/

/-- SLOT_GRANT (R26, R43, R7): with no waiting job, or fewer FREE slots than the head needs, nothing changes; otherwise the head takes
the DEPTH lowest-numbered FREE slots, ring index by ring index, as EMPTY and is PRIMED, and the next head is considered with what is
left, in the same way and whether or not it fits. -/
def Obligations.GrantServesHeadWithLowestSlots : Prop :=
  ∀ s : State,
    (s.slotWait = [] → exec .slotGrant s = .next s) ∧
    (∀ c rest j, s.slotWait = c :: rest → s.jobs[c] = some j →
      (freeCount s < j.depth → exec .slotGrant s = .next s) ∧
      (j.depth ≤ freeCount s → c ∉ rest → NoRing s c →
        ∃ t, exec .slotGrant s = .next t ∧ t.jobs[c] = some { j with state := .primed } ∧ c ∉ t.slotWait ∧
          (∀ (k : Nat) (i : SlotId), k < j.depth → (freeSlots s)[k]? = some i →
            t.slots[i] = { s.slots[i] with state := .empty c k }) ∧
          (rest = [] ∨ (∃ d more m, rest = d :: more ∧ s.jobs[d] = some m ∧ freeCount s - j.depth < m.depth) →
            t.slotWait = rest ∧ freeCount t = freeCount s - j.depth ∧
            (∀ i : SlotId, i ∉ (freeSlots s).take j.depth → t.slots[i] = s.slots[i]) ∧
            { t with jobs := s.jobs, slots := s.slots, slotWait := s.slotWait } = s ∧
            ∀ d : CtxId, d ≠ c → t.jobs[d] = s.jobs[d])) ∧
      (j.depth ≤ freeCount s → NoRing s c →
        ∃ table,
          (∀ (k : Nat) (i : SlotId), k < j.depth → (freeSlots s)[k]? = some i →
            table[i] = { s.slots[i] with state := .empty c k }) ∧
          (∀ i : SlotId, i ∉ (freeSlots s).take j.depth → table[i] = s.slots[i]) ∧
          exec .slotGrant s = exec .slotGrant { s with
            jobs := s.jobs.set c (some { j with state := .primed }), slots := table, slotWait := rest }))

/-- FETCH_ISSUE (R28, R91 to R97): with no free tracker entry or no offered job nothing changes. Otherwise the served job is of the first
class if any offered job is, of the group whose turn comes first, and at the front-most position; the lowest-numbered free entry takes
slot, line and expiry; one read of the line size goes out for BASE + line × STRIDE modulo 2 to the power 64; the slot is FILLING, the
cursor moves on, and the job's group is the last-served one. -/
def Obligations.FetchIssueReadsCursorLine : Prop :=
  ∀ s : State,
    ((∀ e : EntryId, s.tracker[e] ≠ none) ∨ (∀ g : GroupId, ∀ c ∈ s.lists[g], ∀ j i, ¬ Offers s c j i) →
      exec .fetchIssue s = .next s) ∧
    (∀ (e : EntryId) (g : GroupId) (c : CtxId) (j : Job) (i : SlotId) (x : Extent),
      s.tracker[e] = none → (∀ d : EntryId, d < e → s.tracker[d] ≠ none) →
      Offers s c j i → IsServed s g c j → j.group = g →
      j.extents.find? (fun y => decide (y.firstLine ≤ j.cursor ∧ j.cursor < y.firstLine + y.lines.toNat)) = some x →
      exec .fetchIssue s = .next { s with
        link := s.link ++ [.memRead (x.base + BitVec.ofNat 64 ((j.cursor - x.firstLine) * x.stride.toNat))
          ((s.configs[g].laneCount.toNat + 1) / 2)]
        slots := s.slots.set i { s.slots[i] with state := .filling c (j.cursor % j.depth) j.cursor }
        tracker := s.tracker.set e (some { slot := i, line := j.cursor, isVoid := false,
                                           expiry := s.clock.now + s.clock.mhz * fetchLimitMicros s.fetchLimit })
        lastServed := g
        jobs := s.jobs.set c (some { j with cursor := j.cursor + 1 }) })

/-- FETCH_DATA_ANSWER (R8, R29, R30, R98, R102 to R104): the entry frees. A FILLING slot takes the line's levels, two to a byte, low half
first, and is READY; the line is settled, wholly settled extents retire from the head with their notices, and a PRIMED owner is
tested for arming. A STALE slot becomes EMPTY and its line is settled. A DISCARD slot becomes FREE and the grant rule is considered.
An answer of another length is no answer the spec knows: a fault (the model's choice, assumption 12). That in a state no run reaches, a
slot that is neither FILLING, STALE nor DISCARD, the entry only frees is the model's choice, assumption 23. -/
def Obligations.DataAnswerFillsOrFreesSlot : Prop :=
  ∀ (s : State) (e : EntryId) (read : LineRead) (data : List Byte), LiveRead s e read →
    (∀ c k n j, s.slots[read.slot].state = .filling c k n → s.jobs[c] = some j →
      (data.length ≠ (s.configs[j.group].laneCount.toNat + 1) / 2 → exec (.fetchDataAnswer e data) s = .fault .answerLength) ∧
      (data.length = (s.configs[j.group].laneCount.toNat + 1) / 2 →
        ∃ t m, exec (.fetchDataAnswer e data) s = .next t ∧
          t.slots[read.slot].state = .ready c k n ∧
          (∀ l : Fin 64, t.slots[read.slot].levels[l] =
            if l.val < 2 * data.length then (data.getD (l.val / 2) 0).extractLsb' (4 * (l.val % 2)) 4
            else s.slots[read.slot].levels[l]) ∧
          (∀ i : SlotId, i ≠ read.slot → t.slots[i] = s.slots[i]) ∧
          t.jobs[c] = some m ∧ ArmTested t c (settledJob n (roomOf s) j) m ∧
          (∀ d : CtxId, d ≠ c → t.jobs[d] = s.jobs[d]) ∧
          t.holding = s.holding ++ settledNotices n (roomOf s) j ∧
          { t with slots := s.slots, jobs := s.jobs, holding := s.holding } = entryFreed e s)) ∧
    (∀ c k n j, s.slots[read.slot].state = .stale c k n → s.jobs[c] = some j →
      exec (.fetchDataAnswer e data) s = .next { entryFreed e s with
        slots := s.slots.set read.slot { s.slots[read.slot] with state := .empty c k }
        jobs := s.jobs.set c (some (settledJob n (roomOf s) j))
        holding := s.holding ++ settledNotices n (roomOf s) j }) ∧
    (s.slots[read.slot].state = .discard →
      exec (.fetchDataAnswer e data) s = exec .slotGrant { entryFreed e s with
        slots := s.slots.set read.slot { s.slots[read.slot] with state := .free } }) ∧
    ((∀ c k n, s.slots[read.slot].state ≠ .filling c k n) → (∀ c k n, s.slots[read.slot].state ≠ .stale c k n) →
      s.slots[read.slot].state ≠ .discard → exec (.fetchDataAnswer e data) s = .next (entryFreed e s))

/-- FETCH_ERROR_ANSWER and FETCH_EXPIRY (R18, R31, R99, R101): the entry frees. For a FILLING or STALE slot the slot becomes FREE and the
owner, if not ENDED, ends FETCH_FAULT with the entry's line, its pulses cut uncounted, the jobs behind it moving up and the grant rule
considered (R6, R40, R43); for a DISCARD slot no fault is reported. An
error and an expiry differ only in the time and in the answer that may still come late. The model's choices: the expiry moves the
clock to its moment or acts late (assumption 3), `lateReads` counts an answer more (assumption 22), and in a state no run reaches, a
slot that is neither FILLING, STALE nor DISCARD, the entry only frees (assumption 23). -/
def Obligations.FailedReadEndsJobOrFreesSlot : Prop :=
  ∀ (s : State) (e : EntryId) (read : LineRead), s.tracker[e] = some read → read.isVoid = false → s.resetting = false →
    ∃ u, AtMoment read.expiry s u ∧
    ∀ cmd v w, (cmd = .fetchErrorAnswer e ∧ s.clock.now ≤ read.expiry ∧ v = s ∨
        cmd = .fetchExpiry e ∧ v = { u with lateReads := s.lateReads + 1 }) →
      w = { entryFreed e v with slots := s.slots.set read.slot { s.slots[read.slot] with state := .free } } →
      (∀ c k n, s.slots[read.slot].state = .filling c k n ∨ s.slots[read.slot].state = .stale c k n →
        (∀ j, s.jobs[c] = some j → ¬ IsEnded j →
          ∃ t, exec cmd s = .next t ∧ JobEnds (afterCut j w) t c j (.fetchFault read.line)) ∧
        ((∀ j, s.jobs[c] = some j → IsEnded j) → exec cmd s = exec .slotGrant w)) ∧
      (s.slots[read.slot].state = .discard → exec cmd s = exec .slotGrant w) ∧
      ((∀ c k n, s.slots[read.slot].state ≠ .filling c k n) → (∀ c k n, s.slots[read.slot].state ≠ .stale c k n) →
        s.slots[read.slot].state ≠ .discard → exec cmd s = .next (entryFreed e v))

/-- LATE_ANSWER, VOID_READ_ANSWER and answers after the expiry (R100, R115, R120): they reach no entry, slot, job, command or register.
`lateReads` and `voidReads` count the answers that may still come late, and are the model's own (assumption 22); an answer to an
entry that carries no read is no event (assumption 4). -/
def Obligations.LateAnswersAreDiscarded : Prop :=
  ∀ s : State,
    exec .lateAnswer s = .next { s with lateReads := s.lateReads - 1 } ∧
    exec .voidReadAnswer s = .next { s with cp := { s.cp with voidReads := s.cp.voidReads - 1 } } ∧
    (∀ (e : EntryId) (data : List Byte), (∀ read, s.tracker[e] = some read → read.expiry < s.clock.now) →
      exec (.fetchDataAnswer e data) s = .next s ∧ exec (.fetchErrorAnswer e) s = .next s) ∧
    (∀ e : EntryId, s.tracker[e] = none → exec (.fetchExpiry e) s = .next s) ∧
    ((∀ r, ¬ RecordRead s r) → exec .recordReadError s = .next s ∧
      ∀ c, recordAnswer c = true → wellFormed c = true → exec c s = .next s) ∧
    ((∀ r a, ¬ TableRead s r a) → exec .auxiliaryReadError s = .next s ∧ ∀ data, exec (.auxiliaryReadData data) s = .next s)

/-! ## The Command Processor (06_command_rings.md) -/

/-- RESERVATION and TAKE_DECISION (R109 to R113, R152, R165): a reservation is taken in RESERVING while placed records number fewer than
8, and leads to a take decision. In LOOKING a PRODUCER out of range in a ring in use, the priority ring first, faults RING_INDEX;
otherwise the ring of R112's table is read, or nothing happens if neither holds records. That the address of the record is taken
modulo 2 to the power 64 is the model's choice, assumption 25. -/
def Obligations.ReservationAndTakeDecision : Prop :=
  ∀ s : State,
    (s.cp.state ≠ .reserving ∨ 8 ≤ s.holding.length → exec .reservation s = .next s) ∧
    (s.cp.state = .reserving → s.holding.length < 8 →
      exec .reservation s = exec .takeDecision { s with cp := { s.cp with reserved := true, state := .looking } } ∧
      (s.cp.priority.producer = s.cp.priority.consumer → s.cp.priority.size.toNat = 0 ∨
          s.cp.priority.producer.toNat < s.cp.priority.size.toNat → s.cp.normal.size = 0 →
        exec .reservation s = .next { s with cp := { s.cp with reserved := true, state := .looking } })) ∧
    (s.cp.state ≠ .looking → exec .takeDecision s = .next s) ∧
    (s.cp.state = .looking →
      (ProducerBad s.cp.priority → ∃ t, exec .takeDecision s = .next t ∧
        StopsWith s t { noKinds with ringIndex := true } .priority s.cp.priority.producer) ∧
      (¬ ProducerBad s.cp.priority → ProducerBad s.cp.normal → ∃ t, exec .takeDecision s = .next t ∧
        StopsWith s t { noKinds with ringIndex := true } .normal s.cp.normal.producer) ∧
      (¬ ProducerBad s.cp.priority → ¬ ProducerBad s.cp.normal →
        (¬ HoldsRecords s.cp.priority → ¬ HoldsRecords s.cp.normal → exec .takeDecision s = .next s) ∧
        (HoldsRecords s.cp.normal → ¬ HoldsRecords s.cp.priority ∨ 4 ≤ s.cp.count →
          exec .takeDecision s = .next (ReadingRecord .normal s)) ∧
        (HoldsRecords s.cp.priority → ¬ HoldsRecords s.cp.normal ∨ s.cp.count < 4 →
          exec .takeDecision s = .next (ReadingRecord .priority s))))

/-- RECORD_READ_ERROR, RECORD_READ_EXPIRY, AUXILIARY_READ_ERROR, AUXILIARY_READ_EXPIRY (R113, R115, R120, R165): a failed record read is a
RING_READ fault with the ring and CONSUMER, and the record is not consumed; a failed table read ends its command with READ_FAULT and
changes nothing else. An expiry takes the time to its moment or acts late (the model's choice, assumption 3) and leaves one answer that
may come late (`voidReads`, the model's own, assumption 22); one of no read in flight is no event (assumption 4). -/
def Obligations.FailedReadsOfTheCommandProcessor : Prop :=
  ∀ s : State,
    (∀ r e, s.cp.state = .record r e → ∃ u t, AtMoment e s u ∧ exec .recordReadExpiry s = .next t ∧
      StopsWith { u with cp := { s.cp with voidReads := s.cp.voidReads + 1 } } t { noKinds with ringRead := true } (ringOf r)
        (regsOf r s).consumer) ∧
    (∀ r, RecordRead s r → ∃ t, exec .recordReadError s = .next t ∧
      StopsWith s t { noKinds with ringRead := true } (ringOf r) (regsOf r s).consumer) ∧
    (∀ r e a, s.cp.state = .auxiliary r e a → ∃ u, AtMoment e s u ∧ exec .auxiliaryReadExpiry s = .next
      (Ended r (auxCmdId a) .readFault 0 { u with cp := { s.cp with voidReads := s.cp.voidReads + 1 } })) ∧
    (∀ r a, TableRead s r a → exec .auxiliaryReadError s = .next (Ended r (auxCmdId a) .readFault 0 s)) ∧
    ((∀ r e, s.cp.state ≠ .record r e) → exec .recordReadExpiry s = .next s) ∧
    ((∀ r e a, s.cp.state ≠ .auxiliary r e a) → exec .auxiliaryReadExpiry s = .next s)

/-! ## Commands (07_command_reference.md) -/

/-- NOP and UNKNOWN_OPCODE (R114, R116, R123, R125): the record's end with OK, or with BAD_FIELD when OPCODE names no command, and no
change to any block. A term UNKNOWN_OPCODE whose OPCODE names a command is refused (the model's choice, assumption 4). -/
def Obligations.NopAndUnknownOpcodeEnd : Prop :=
  ∀ (s : State) (r : SubRing) (id : Short), RecordRead s r →
    exec (.nop id) s = .next (Ended r id .ok 0 s) ∧
    (∀ op : Byte, 0x0B < op.toNat → exec (.unknownOpcode op id) s = .next (Ended r id .badField 0 s)) ∧
    (∀ op : Byte, op.toNat ≤ 0x0B → exec (.unknownOpcode op id) s = .refused .illFormed)

/-- CONFIG_GROUP (R122, R126 to R129, R52): the checks in their order, the first that fails giving the status and nothing else changing;
an accepted one replaces the configuration whole and leaves the rest of the group initial but its drain waiters. -/
def Obligations.ConfigGroupChecksInOrderAndApplies : Prop :=
  ∀ (s : State) (r : SubRing) (id : Short) (target : Word) (f : GroupFields), RecordRead s r →
    (3 < target.toNat → exec (.configGroup id target f) s = .next (Ended r id .badField 0 s)) ∧
    ∀ g : GroupId, target.toNat = g.val →
      (¬ FieldsInRange g f → exec (.configGroup id target f) s = .next (Ended r id .badField 0 s)) ∧
      (FieldsInRange g f →
        (ConfigBusy s g f → exec (.configGroup id target f) s = .next (Ended r id .groupBusy 0 s)) ∧
        (¬ ConfigBusy s g f →
          (f.laneCount ≠ 0 → SharesLane s g f → exec (.configGroup id target f) s = .next (Ended r id .laneConflict 0 s)) ∧
          (f.laneCount ≠ 0 → ¬ SharesLane s g f → MakesLoop s g f →
            exec (.configGroup id target f) s = .next (Ended r id .followLoop 0 s)) ∧
          (f.laneCount ≠ 0 → ¬ SharesLane s g f → ¬ MakesLoop s g f → LeaderOff s f →
            exec (.configGroup id target f) s = .next (Ended r id .groupOff 0 s)) ∧
          (f.laneCount = 0 ∨ ¬ SharesLane s g f ∧ ¬ MakesLoop s g f ∧ ¬ LeaderOff s f →
            exec (.configGroup id target f) s = .next (Ended r id .ok 0 { s with
              configs := s.configs.set g f, groups := s.groups.set g (Reconfigured s f s.groups[g]) }))))

/-- CONFIG_LANES, LOAD_PROFILE, START_JOB and APPEND_LINES that name a table and pass their record and state checks (R114, R115, R130,
R132, R134, R135, R137): the table of 10.2's length is read from the record's address with the fetch limit in effect, and no block
changes while it is in flight. -/
def Obligations.AcceptedRecordsReadTheirTables : Prop :=
  ∀ (s : State) (r : SubRing) (id : Short), RecordRead s r →
    (∀ first count address, LanesInRange first count address → ¬ LanesBusy s first count →
      exec (.configLanes id first count address) s =
        .next (ReadingTable r address (4 * count.toNat) (.configLanes id first count) s)) ∧
    (∀ (profile : Byte) (p : ProfileId) address, profile.toNat = p.val → Aligned address →
      exec (.loadProfile id profile address) s = .next (ReadingTable r address 64 (.loadProfile id p) s)) ∧
    (∀ tag f p, StartInRange f → ParamsOf f p → StartFits s tag p.group → f.extentCount ≠ 0 →
      exec (.startJob id tag f) s =
        .next (ReadingTable r f.listAddress (16 * f.extentCount.toNat) (.startJob id tag p) s)) ∧
    (∀ tag count address c j, AppendInRange count address → Carries s tag c j → ¬ IsEnded j → j.isOpen = true →
      j.extents.length + count.toNat ≤ 16 →
      exec (.appendLines id tag count address) s =
        .next (ReadingTable r address (16 * count.toNat) (.appendLines id tag j.group j.supplied count.toNat) s))

/-- CONFIG_LANES, LOAD_PROFILE, START_JOB, APPEND_LINES, CLOSE_JOB and ABORT_JOB refused at their record or state checks (R121, R122, R124,
R130, R132, R134, R137, R139, R141): the first check that fails gives the status, and only the end of the command happens. -/
def Obligations.RefusedRecordsChangeNothing : Prop :=
  ∀ (s : State) (r : SubRing) (id : Short), RecordRead s r →
    (∀ first count address,
      (¬ LanesInRange first count address → exec (.configLanes id first count address) s = .next (Ended r id .badField 0 s)) ∧
      (LanesInRange first count address → LanesBusy s first count →
        exec (.configLanes id first count address) s = .next (Ended r id .groupBusy 0 s))) ∧
    (∀ (profile : Byte) address, 7 < profile.toNat ∨ ¬ Aligned address →
      exec (.loadProfile id profile address) s = .next (Ended r id .badField 0 s)) ∧
    (∀ tag f, (¬ StartInRange f → exec (.startJob id tag f) s = .next (Ended r id .badField 0 s)) ∧
      ∀ g : GroupId, StartInRange f → f.group.toNat = g.val →
        (s.configs[g].laneCount = 0 → exec (.startJob id tag f) s = .next (Ended r id .groupOff 0 s)) ∧
        (s.configs[g].laneCount ≠ 0 → TagLive s tag → exec (.startJob id tag f) s = .next (Ended r id .tagInUse 0 s)) ∧
        (s.configs[g].laneCount ≠ 0 → ¬ TagLive s tag → (∀ c : CtxId, s.jobs[c] ≠ none) →
          exec (.startJob id tag f) s = .next (Ended r id .noContext 0 s)) ∧
        (s.configs[g].laneCount ≠ 0 → ¬ TagLive s tag → (∃ c : CtxId, s.jobs[c] = none) → 4 ≤ s.lists[g].length →
          exec (.startJob id tag f) s = .next (Ended r id .listFull 0 s))) ∧
    (∀ tag count address, ¬ AppendInRange count address →
      exec (.appendLines id tag count address) s = .next (Ended r id .badField 0 s)) ∧
    (∀ tag, ¬ TagLive s tag →
      (∀ count address, AppendInRange count address →
        exec (.appendLines id tag count address) s = .next (Ended r id .notFound 0 s)) ∧
      exec (.closeJob id tag) s = .next (Ended r id .notFound 0 s) ∧
      exec (.abortJob id tag) s = .next (Ended r id .notFound 0 s)) ∧
    (∀ tag c j, Carries s tag c j →
      (IsEnded j →
        (∀ count address, AppendInRange count address →
          exec (.appendLines id tag count address) s = .next (Ended r id .jobEnded 0 s)) ∧
        exec (.closeJob id tag) s = .next (Ended r id .jobEnded 0 s) ∧
        exec (.abortJob id tag) s = .next (Ended r id .jobEnded 0 s)) ∧
      (¬ IsEnded j → j.isOpen = false →
        (∀ count address, AppendInRange count address →
          exec (.appendLines id tag count address) s = .next (Ended r id .jobClosed 0 s)) ∧
        exec (.closeJob id tag) s = .next (Ended r id .jobClosed 0 s)) ∧
      (¬ IsEnded j → j.isOpen = true → ∀ count address, AppendInRange count address → 16 < j.extents.length + count.toNat →
        exec (.appendLines id tag count address) s = .next (Ended r id .extentsFull 0 s)))

/-- START_JOB applied (R2, R4, R6, R26, R89, R90, R116, R134 to R136): at the record's answer when it names no table, at the table's answer
otherwise, if every extent is in range for the group's line size; one extent out of range refuses the whole command. A table of
another length is a fault (the model's choice, assumption 12). -/
def Obligations.StartJobCreatesJob : Prop :=
  (∀ (s : State) (r : SubRing) (id : Short) (tag : Word) (f : StartFields) (p : JobParams), RecordRead s r →
    StartInRange f → ParamsOf f p → StartFits s tag p.group → f.extentCount = 0 →
    ∃ t c, exec (.startJob id tag f) s = .next t ∧ Created s t r id tag p [] c) ∧
  (∀ (s : State) (r : SubRing) (id : Short) (tag : Word) (p : JobParams) (data : List Byte),
    TableRead s r (.startJob id tag p) →
    (data.length ≠ 16 * p.extentCount → exec (.auxiliaryReadData data) s = .fault .answerLength) ∧
    (data.length = 16 * p.extentCount →
      ((∃ k, k < p.extentCount ∧ ¬ ExtentInRange (lineSize s.configs[p.group]) (entryOfTable data k)) →
        exec (.auxiliaryReadData data) s = .next (Ended r id .badField 0 s)) ∧
      ((∀ k, k < p.extentCount → ExtentInRange (lineSize s.configs[p.group]) (entryOfTable data k)) →
        (∃ c : CtxId, s.jobs[c] = none) →
        ∃ t c, exec (.auxiliaryReadData data) s = .next t ∧ Created s t r id tag p (entriesOfTable data p.extentCount) c)))

/-- CONFIG_LANES and LOAD_PROFILE applied at the answer of their table (R73, R75, R122, R130 to R132, R74): every lane of the range takes
its record and no other lane changes; the profile takes its sixteen entries and its generation grows by one modulo 65536; one code or
DELAY out of range refuses the whole command. A table of another length is a fault (the model's choice, assumption 12). -/
def Obligations.LaneAndProfileTablesApplyWhole : Prop :=
  (∀ (s : State) (r : SubRing) (id : Short) (first count : Byte) (data : List Byte), TableRead s r (.configLanes id first count) →
    (data.length ≠ 4 * count.toNat → exec (.auxiliaryReadData data) s = .fault .answerLength) ∧
    (data.length = 4 * count.toNat →
      ((∃ k, k < count.toNat ∧ ¬ (byteAt data (4 * k) ≤ 1 ∧ byteAt data (4 * k + 1) ≤ 1)) →
        exec (.auxiliaryReadData data) s = .next (Ended r id .badField 0 s)) ∧
      ((∀ k, k < count.toNat → byteAt data (4 * k) ≤ 1 ∧ byteAt data (4 * k + 1) ≤ 1) →
        ∃ table, exec (.auxiliaryReadData data) s = .next (Ended r id .ok 0 { s with lanes := table }) ∧
          ∀ lane : LaneId,
            (∀ k, k < count.toNat → lane.val = first.toNat + k → table[lane] =
              { enable := byteAt data (4 * k) = 1
                polarity := if byteAt data (4 * k + 1) = 1 then .activeLow else .activeHigh
                trim := byteAt data (4 * k + 2) }) ∧
            (lane.val < first.toNat ∨ first.toNat + count.toNat ≤ lane.val → table[lane] = s.lanes[lane])))) ∧
  (∀ (s : State) (r : SubRing) (id : Short) (p : ProfileId) (data : List Byte), TableRead s r (.loadProfile id p) →
    (data.length ≠ 64 → exec (.auxiliaryReadData data) s = .fault .answerLength) ∧
    (data.length = 64 →
      ((∃ l, l < 16 ∧ 4095 < (shortAt data (4 * l)).toNat) →
        exec (.auxiliaryReadData data) s = .next (Ended r id .badField 0 s)) ∧
      ((∀ l, l < 16 → (shortAt data (4 * l)).toNat ≤ 4095) →
        exec (.auxiliaryReadData data) s = .next (Ended r id .ok 0 { s with
          profiles := s.profiles.set p {
            entries := Vector.ofFn fun l : Fin 16 => { delay := shortAt data (4 * l.val), width := shortAt data (4 * l.val + 2) }
            generation := s.profiles[p].generation + 1 } }))))

/-- APPEND_LINES applied at the answer of its table (R8, R89, R90, R135, R137, R138): an extent out of range, or a sum past 4,294,967,295,
refuses it whole with BAD_FIELD; a job that has ended or gone refuses it with JOB_ENDED; otherwise the extents join the back, lines
supplied grows, and a PRIMED job is tested for arming. That a table of another length is a fault is the model's choice, assumption 12;
that line size and sum are those found at the record check is inferred, assumption 13. -/
def Obligations.AppendedExtentsJoinTheJob : Prop :=
  ∀ (s : State) (r : SubRing) (id : Short) (tag : Word) (g : GroupId) (supplied n : Nat) (data : List Byte),
    TableRead s r (.appendLines id tag g supplied n) →
    (data.length ≠ 16 * n → exec (.auxiliaryReadData data) s = .fault .answerLength) ∧
    (data.length = 16 * n →
      ((∃ k, k < n ∧ ¬ ExtentInRange (lineSize s.configs[g]) (entryOfTable data k)) ∨
          4294967295 < supplied + ((entriesOfTable data n).map fun e => e.lines.toNat).sum →
        exec (.auxiliaryReadData data) s = .next (Ended r id .badField 0 s)) ∧
      ((∀ k, k < n → ExtentInRange (lineSize s.configs[g]) (entryOfTable data k)) →
        supplied + ((entriesOfTable data n).map fun e => e.lines.toNat).sum ≤ 4294967295 →
        (¬ TagLive s tag → exec (.auxiliaryReadData data) s = .next (Ended r id .jobEnded 0 s)) ∧
        (∀ c j, Carries s tag c j →
          (IsEnded j → exec (.auxiliaryReadData data) s = .next (Ended r id .jobEnded 0 s)) ∧
          (¬ IsEnded j → ∃ k, ArmTested s c { j with
              extents := j.extents ++ numberExtents j.supplied (entriesOfTable data n)
              supplied := j.supplied + ((entriesOfTable data n).map fun e => e.lines.toNat).sum } k ∧
            exec (.auxiliaryReadData data) s = .next (Ended r id .ok 0 { s with jobs := s.jobs.set c (some k) })))))

/-- CLOSE_JOB accepted (R16, R123, R139): OPEN becomes no. With every supplied line fired or skipped, a PENDING, WAITING or PRIMED job, and a
RUNNING one with no pulse of its group in progress, ends ENDED in the event, its JOB_END offered before the OK is placed; a RUNNING
one with pulses in progress becomes FINISHING. At an end the jobs behind move up and the grant rule is considered (R6, R40, R43). Otherwise only OPEN changes; that this is so of an ARMED job with every supplied line
passed, which no run reaches, is the model's choice, assumption 23. -/
def Obligations.CloseJobEndsOrFinishesJob : Prop :=
  ∀ (s : State) (r : SubRing) (id : Short) (tag : Word) (c : CtxId) (j : Job), RecordRead s r → Carries s tag c j →
    ¬ IsEnded j → j.isOpen = true →
    (j.firePos = j.supplied →
      (j.state = .pending ∨ j.state = .waiting ∨ j.state = .primed ∨
        (j.state = .running ∧ ∀ lane : LaneId, ∀ d, pulseJob s.pulses[lane] ≠ some (j.group, d)) →
        ∃ v, JobEnds s v c j .ended ∧ exec (.closeJob id tag) s = .next (Ended r id .ok 0 v)) ∧
      (j.state = .running → (∃ lane : LaneId, ∃ d, pulseJob s.pulses[lane] = some (j.group, d)) →
        exec (.closeJob id tag) s = .next (Ended r id .ok 0 { s with
          jobs := s.jobs.set c (some { j with isOpen := false, state := .finishing }) }))) ∧
    (j.firePos ≠ j.supplied ∨ j.state = .armed →
      exec (.closeJob id tag) s = .next (Ended r id .ok 0 { s with jobs := s.jobs.set c (some { j with isOpen := false }) }))

/-- ABORT_JOB accepted (R17, R85, R123, R141): the job ends ABORTED in the event, whatever its state, with its counters as they stood;
pulses of a RUNNING or FINISHING job are cut uncounted; the jobs behind it move up and the grant rule is considered (R6, R40, R43); the
JOB_END is offered before the OK is placed. -/
def Obligations.AbortJobEndsJobAtOnce : Prop :=
  ∀ (s : State) (r : SubRing) (id : Short) (tag : Word) (c : CtxId) (j : Job), RecordRead s r → Carries s tag c j →
    ¬ IsEnded j → ∃ v, JobEnds (afterCut j s) v c j .aborted ∧ exec (.abortJob id tag) s = .next (Ended r id .ok 0 v)

/-- HOLD_GROUP (R143, with R64): BAD_FIELD, GROUP_OFF, or OK with NONE made PENDING, PENDING and HELD left; nothing else changes, jobs or
no jobs. After the OK the group's report shows the hold state, and its next line event is kept and makes it HELD. -/
def Obligations.HoldGroupMakesHoldPending : Prop :=
  ∀ (s : State) (r : SubRing) (id : Short) (target : Word), RecordRead s r →
    (3 < target.toNat → exec (.holdGroup id target) s = .next (Ended r id .badField 0 s)) ∧
    ∀ g : GroupId, target.toNat = g.val →
      (s.configs[g].laneCount = 0 → exec (.holdGroup id target) s = .next (Ended r id .groupOff 0 s)) ∧
      (s.configs[g].laneCount ≠ 0 →
        (s.groups[g].hold ≠ .none → exec (.holdGroup id target) s = .next (Ended r id .ok 0 s)) ∧
        (s.groups[g].hold = .none →
          exec (.holdGroup id target) s = .next (Ended r id .ok 0 (withHold g .pending s)) ∧
          byteAt (reportBytes (Ended r id .ok 0 (withHold g .pending s)) g) 1 = 1 ∧
          (NoFollower s g → ∃ x, produceLineEvent g (Ended r id .ok 0 (withHold g .pending s)) =
              withGroup g x (Ended r id .ok 0 (withHold g .pending s)) ∧ x.hold = .held ∧
            x.counters.heldEvents = counted s.groups[g].counters.heldEvents) ∧
          (LeadersOk s → (produceLineEvent g (Ended r id .ok 0 (withHold g .pending s))).groups[g].hold = .held)))

/-- RELEASE_GROUP (R144, with R65): BAD_FIELD, GROUP_OFF, or OK with PENDING and HELD made NONE and NONE left; HELD_EVENTS_G keeps its
count and nothing else changes. From then on line events are delivered; a release that follows a hold with no line event between
them leaves the group as it was before the hold, with nothing kept. -/
def Obligations.ReleaseGroupDeliversLineEvents : Prop :=
  ∀ (s : State) (r : SubRing) (id : Short) (target : Word), RecordRead s r →
    (3 < target.toNat → exec (.releaseGroup id target) s = .next (Ended r id .badField 0 s)) ∧
    ∀ g : GroupId, target.toNat = g.val →
      (s.configs[g].laneCount = 0 → exec (.releaseGroup id target) s = .next (Ended r id .groupOff 0 s)) ∧
      (s.configs[g].laneCount ≠ 0 →
        exec (.releaseGroup id target) s = .next (Ended r id .ok 0 (withHold g .none s)) ∧
        (NoFollower s g → produceLineEvent g (withHold g .none s) = deliver g (withGroup g { s.groups[g] with
          hold := .none
          counters := { s.groups[g].counters with lineEvents := counted s.groups[g].counters.lineEvents } } s)) ∧
        (s.groups[g].hold = .none → ∀ (v : State) (other : Short), RecordRead v r →
          v = { Ended r other .ok 0 (withHold g .pending s) with cp := v.cp } →
          ∃ t, exec (.releaseGroup id target) v = .next t ∧ t.groups[g] = s.groups[g]))

/-- DRAIN_GROUP (R67, R116, R145): BAD_FIELD; OK at once with an empty list; WAIT_LIMIT with four waiters; otherwise a parked waiter at the
back, no response, CONSUMER and the arbitration count moved, the reservation kept, and the Command Processor in LOOKING, where it
makes a take decision, if RUN is 1 and STOPPED if not. -/
def Obligations.DrainGroupAnswersOrParks : Prop :=
  ∀ (s : State) (r : SubRing) (id : Short) (target : Word), RecordRead s r →
    (3 < target.toNat → exec (.drainGroup id target) s = .next (Ended r id .badField 0 s)) ∧
    ∀ g : GroupId, target.toNat = g.val →
      (s.lists[g] = [] → exec (.drainGroup id target) s = .next (Ended r id .ok 0 s)) ∧
      (s.lists[g] ≠ [] → 4 ≤ s.groups[g].waiters.length → exec (.drainGroup id target) s = .next (Ended r id .waitLimit 0 s)) ∧
      (s.lists[g] ≠ [] → s.groups[g].waiters.length < 4 → ∃ v,
        v = withGroup g { s.groups[g] with waiters := s.groups[g].waiters ++ [{ cmdId := id, state := .parked }] } s ∧
        (s.run = true → exec (.drainGroup id target) s =
          exec .takeDecision { v with cp := { consumedCp r s.cp with state := .looking } }) ∧
        (s.run = false → exec (.drainGroup id target) s = .next { v with cp := { consumedCp r s.cp with state := .stopped } }))

/-- R68: the end of the last job of a group's list makes its parked waiters due, and they are answered OK, oldest first, once that job's
JOB_END has been placed, while unreserved entries are free; the ones left wait with the JOB_END's placement noted. -/
def Obligations.DrainWaitersAnswerAfterJobEnd : Prop :=
  ∀ (s : State) (c : CtxId) (j : Job) (st : EndStatus), s.jobs[c] = some j → s.lists[j.group] = [c] → s.endQueue = [] →
    s.eligible = [] → (∀ h : GroupId, ∀ w ∈ s.groups[h].waiters, w.state = .parked) →
    (endJob c st s).holding = s.holding ++
      (CompRecord.jobEnd j.tag c st j.linesFired j.linesSkipped j.heldEvents j.clipped j.noticesLost ::
        s.groups[j.group].waiters.map fun w => .response w.cmdId .ok 0).take (roomOf s) ∧
    (roomOf s ≠ 0 → (endJob c st s).groups[j.group].waiters =
      (s.groups[j.group].waiters.drop (roomOf s - 1)).map fun w => { w with state := .ready }) ∧
    (roomOf s = 0 → (endJob c st s).endQueue = [c] ∧
      (endJob c st s).groups[j.group].waiters = s.groups[j.group].waiters.map fun w => { w with state := .due c }) ∧
    (∀ h : GroupId, h ≠ j.group → (endJob c st s).groups[h] = s.groups[h])

/-- REPORT_GROUP (R70, R146, R172): BAD_FIELD, or one write of the 64 bytes of 10.4 at ADDRESS, then, with CLEAR, the reset of counters and
monitor, then OK; nothing else of the group changes, the last accepted time included. -/
def Obligations.ReportGroupWritesSnapshot : Prop :=
  ∀ (s : State) (r : SubRing) (id : Short) (target : Word) (clear : Bool) (address : Addr), RecordRead s r →
    (3 < target.toNat ∨ ¬ Aligned address →
      exec (.reportGroup id target clear address) s = .next (Ended r id .badField 0 s)) ∧
    ∀ g : GroupId, target.toNat = g.val → Aligned address → ∃ bytes,
      exec (.reportGroup id target clear address) s = .next (Ended r id .ok 0
        { s with
          link := s.link ++ [.memWrite address bytes]
          groups := if clear = true then s.groups.set g { s.groups[g] with
              counters := { lineEvents := 0, idleEvents := 0, heldEvents := 0, trigAccepted := 0, trigBusy := 0, trigFast := 0 }
              monitor := { last := 0, min := 0xFFFFFF, max := 0, saturated := false } } else s.groups }) ∧
      bytes.length = 64 ∧
      (s.configs[g].laneCount = 0 → byteAt bytes 0 = 0) ∧
      (s.configs[g].laneCount ≠ 0 → (∃ c ∈ s.lists[g], ∃ j, s.jobs[c] = some j ∧ FirstClass j) → byteAt bytes 0 = 2) ∧
      (s.configs[g].laneCount ≠ 0 → (∀ c ∈ s.lists[g], ∀ j, s.jobs[c] = some j → ¬ FirstClass j) → byteAt bytes 0 = 1) ∧
      byteAt bytes 1 = (match s.groups[g].hold with | .none => 0 | .pending => 1 | .held => 2) ∧
      (byteAt bytes 2).toNat = s.lists[g].length % 256 ∧
      (s.groups[g].latched = none → byteAt bytes 3 = 0 ∧ shortAt bytes 4 = 0) ∧
      (∀ l, s.groups[g].latched = some l → (byteAt bytes 3).toNat = 128 + l.number.val ∧ shortAt bytes 4 = l.generation) ∧
      byteAt bytes 6 = (if s.groups[g].monitor.saturated = true then 1 else 0) ∧ (byteAt bytes 7).toNat = g.val ∧
      (∀ k, k < 4 → (∀ c j, s.lists[g][k]? = some c → s.jobs[c] = some j → wordAt bytes (8 + 4 * k) = j.tag) ∧
        (s.lists[g][k]? = none → wordAt bytes (8 + 4 * k) = 0)) ∧
      wordAt bytes 24 = s.groups[g].counters.lineEvents ∧ wordAt bytes 28 = s.groups[g].counters.idleEvents ∧
      wordAt bytes 32 = s.groups[g].counters.heldEvents ∧ wordAt bytes 36 = s.groups[g].counters.trigAccepted ∧
      wordAt bytes 40 = s.groups[g].counters.trigBusy ∧ wordAt bytes 44 = s.groups[g].counters.trigFast ∧
      (wordAt bytes 48).toNat = s.groups[g].monitor.last.toNat ∧ (wordAt bytes 52).toNat = s.groups[g].monitor.min.toNat ∧
      (wordAt bytes 56).toNat = s.groups[g].monitor.max.toNat ∧ wordAt bytes 60 = 0

/-! ## Completions (08_completions_and_the_interrupt.md) -/

/-- JOB_END_PLACEMENT and DRAIN_RESPONSE (R21, R68, R151 to R154): with an unreserved entry free the JOB_END of the oldest context of the end
queue, with its counters and end status, or the OK of the oldest eligible drain waiter, joins the back of the holding list; the
waiters that noted the job may then be offered, and groups whose oldest waiter may be offered join the order. With no entry free, or
nothing waiting, nothing changes. -/
def Obligations.WaitingOffersArePlaced : Prop :=
  ∀ s : State,
    (roomOf s = 0 ∨ s.endQueue = [] → exec .jobEndPlacement s = .next s) ∧
    (roomOf s = 0 ∨ s.eligible = [] → exec .drainResponse s = .next s) ∧
    (∀ c rest j st, roomOf s ≠ 0 → s.endQueue = c :: rest → s.jobs[c] = some j → j.state = .ended st →
      ∃ t more, exec .jobEndPlacement s = .next t ∧ t.endQueue = rest ∧ t.eligible = s.eligible ++ more ∧
        t.holding = s.holding ++ [.jobEnd j.tag c st j.linesFired j.linesSkipped j.heldEvents j.clipped j.noticesLost] ∧
        (∀ g : GroupId, t.groups[g] = { s.groups[g] with
          waiters := s.groups[g].waiters.map fun w => if w.state = .due c then { w with state := .ready } else w }) ∧
        (∀ g : GroupId, g ∈ more ↔ g ∉ s.eligible ∧ ∃ w ws, t.groups[g].waiters = w :: ws ∧ w.state = .ready) ∧
        { t with endQueue := s.endQueue, eligible := s.eligible, holding := s.holding, groups := s.groups } = s) ∧
    (∀ g rest w ws, roomOf s ≠ 0 → s.eligible = g :: rest → s.groups[g].waiters = w :: ws →
      ∃ t more, exec .drainResponse s = .next t ∧ t.eligible = rest ++ more ∧
        t.holding = s.holding ++ [.response w.cmdId .ok 0] ∧ t.groups = s.groups.set g { s.groups[g] with waiters := ws } ∧
        (∀ h : GroupId, h ∈ more ↔ h ∉ rest ∧ ∃ x xs, t.groups[h].waiters = x :: xs ∧ x.state = .ready) ∧
        { t with eligible := s.eligible, holding := s.holding, groups := s.groups } = s)

/-- COMPLETION_WRITE (R22, R148, R149, R151, R154, R158, R159, R172): with nothing placed, an invalid SIZE, a full ring, posting stopped or a
device reset, nothing is written. Otherwise the head goes to BASE + PRODUCER × 32 as 32 bytes with the LAP flag in effect, every byte and bit that 10.3 does not assign to the kind 0, PRODUCER
moves on and the flag changes at a wrap, the condition is evaluated after the write, a JOB_END frees its context, and the freed entry
goes to the first waiting claimant: the end queue's head, the oldest eligible drain response, or the Command Processor. That the entry's
address is taken modulo 2 to the power 64 is the model's choice, assumption 25. -/
def Obligations.CompletionWritePostsHead : Prop :=
  ∀ s : State,
    (s.holding = [] ∨ Config.validCompletionSize s.comp.size = false ∨
        (s.comp.producer.toNat + 1) % s.comp.size.toNat = s.comp.consumer.toNat ∨ s.comp.stopped = true ∨ s.inReset.isSome = true →
      exec .completionWrite s = .next s) ∧
    (∀ record rest, s.holding = record :: rest → Config.validCompletionSize s.comp.size = true →
      (s.comp.producer.toNat + 1) % s.comp.size.toNat ≠ s.comp.consumer.toNat → s.comp.stopped = false → s.inReset = none →
      ∃ v bytes,
        bytes.length = 32 ∧ (byteAt bytes 0).getLsbD 7 = s.comp.lap ∧
        (∀ id status value, record = .response id status value → (byteAt bytes 0).extractLsb' 0 7 = 0 ∧
          byteAt bytes 1 = statusNumber status ∧ shortAt bytes 2 = id ∧ wordAt bytes 4 = value ∧
          ∀ k, 8 ≤ k → k < 32 → byteAt bytes k = 0) ∧
        (∀ tag c st fired skipped held clipped lost, record = .jobEnd tag c st fired skipped held clipped lost →
          (byteAt bytes 0).extractLsb' 0 7 = 1 ∧ byteAt bytes 1 = endNumber st ∧ (byteAt bytes 2).toNat = c.val ∧
          byteAt bytes 3 = (match st with | .fetchFault _ => 1 | .ended | .aborted | .underrun => 0) ∧
          wordAt bytes 4 = tag ∧ wordAt bytes 8 = fired ∧ wordAt bytes 12 = skipped ∧ wordAt bytes 16 = held ∧
          wordAt bytes 20 = clipped ∧ wordAt bytes 24 = lost ∧
          wordAt bytes 28 = (match st with | .fetchFault n => BitVec.ofNat 32 n | .ended | .aborted | .underrun => 0)) ∧
        (∀ tag fired, record = .mark tag fired →
          (byteAt bytes 0).extractLsb' 0 7 = 2 ∧ wordAt bytes 4 = tag ∧ wordAt bytes 8 = fired ∧
          ∀ k, 1 ≤ k ∧ k ≤ 3 ∨ 12 ≤ k ∧ k < 32 → byteAt bytes k = 0) ∧
        (∀ tag ordinal, record = .extentDone tag ordinal →
          (byteAt bytes 0).extractLsb' 0 7 = 3 ∧ wordAt bytes 4 = tag ∧ wordAt bytes 8 = BitVec.ofNat 32 ordinal ∧
          ∀ k, 1 ≤ k ∧ k ≤ 3 ∨ 12 ≤ k ∧ k < 32 → byteAt bytes k = 0) ∧
        v.comp = { s.comp with
          producer := BitVec.ofNat 16 ((s.comp.producer.toNat + 1) % s.comp.size.toNat)
          lap := if (s.comp.producer.toNat + 1) % s.comp.size.toNat = 0 then !s.comp.lap else s.comp.lap
          times := s.comp.times ++ [s.clock.now] } ∧
        v.holding = rest ∧
        Evaluated { s with link := s.link ++ [.memWrite (s.comp.base + BitVec.ofNat 64 (s.comp.producer.toNat * 32)) bytes] } v ∧
        (∀ c : CtxId, ((∃ tag st a b d e f, record = .jobEnd tag c st a b d e f) → v.jobs[c] = none) ∧
          ((∀ tag st a b d e f, record ≠ .jobEnd tag c st a b d e f) → v.jobs[c] = s.jobs[c])) ∧
        { v with comp := s.comp, holding := s.holding, condition := s.condition, link := s.link, jobs := s.jobs } = s ∧
        (s.endQueue = [] → s.eligible = [] →
          exec .completionWrite s = exec .reservation v ∧ (s.cp.state ≠ .reserving → exec .completionWrite s = .next v)) ∧
        (roomOf s = 0 → HoldingOk s →
          (∀ c more j st, s.endQueue = c :: more → v.jobs[c] = some j → j.state = .ended st →
            exec .completionWrite s = exec .jobEndPlacement v) ∧
          (∀ g more, s.endQueue = [] → s.eligible = g :: more → s.groups[g].waiters ≠ [] →
            exec .completionWrite s = exec .drainResponse v)))

/-! ## Laws of the whole part -/

/-- The laws hold right after a device reset (R51, R110, R147, R152; the values the model names are assumptions 1, 2 and 14). -/
def Obligations.LawsHoldAtReset : Prop :=
  HoldingOk State.reset ∧ SpansOk State.reset ∧ LeadersOk State.reset ∧ ListsOk State.reset ∧ CompletionOk State.reset ∧
  RegistersOk State.reset

/-- R110, R152: every step keeps the holding list, its reservation, RUN and the Command Processor's state in order. -/
def Obligations.StepsKeepHoldingListInOrder : Prop :=
  ∀ s t : State, HoldingOk s → step s = .next t → HoldingOk t

/-- R49: every step keeps every lane in at most one span, and every span within the lanes. -/
def Obligations.StepsKeepSpansDisjoint : Prop :=
  ∀ s t : State, SpansOk s → step s = .next t → SpansOk t

/-- R53: every step keeps the leader relation free of cycles, with every leader configured. -/
def Obligations.StepsKeepLeadersAcyclic : Prop :=
  ∀ s t : State, LeadersOk s → step s = .next t → LeadersOk t

/-- R5, R67, R117: every step keeps at most four jobs in a list and at most four waiters in a group. -/
def Obligations.StepsKeepListsBounded : Prop :=
  ∀ s t : State, ListsOk s → step s = .next t → ListsOk t

/-- R147, R148, R150: every step keeps the indices below SIZE and one write time for each unreleased entry. -/
def Obligations.StepsKeepCompletionRingInOrder : Prop :=
  ∀ s t : State, CompletionOk s → step s = .next t → CompletionOk t

/-- R47, R48, R74, R107, R112, R147, R157, R163: every step keeps every register and every group's configuration in its stated range:
the tick divider in effect and the held one, THRESHOLD, the arbitration count, the three BASE registers, CONSUMER of each submission
ring below its SIZE, DELAY of every profile entry, and the fields of a configuration that apply to its group. PRODUCER and the SIZE
registers hold what the host wrote (R108, R147) and the completion ring's indices are another statement's. -/
def Obligations.StepsKeepRegistersInRange : Prop :=
  ∀ s t : State, RegistersOk s → step s = .next t → RegistersOk t

/-- R73, R74, R75, R48: the lane table and the profiles change only when a table comes or at a device reset, and a group's configuration
only at a CONFIG_GROUP or a device reset. -/
def Obligations.TablesChangeOnlyByTheirCommands : Prop :=
  ∀ (c : Instr) (s t : State), exec c s = .next t →
    ((∀ data, c ≠ .auxiliaryReadData data) → c ≠ .deviceReset → t.lanes = s.lanes ∧ t.profiles = s.profiles) ∧
    ((∀ id target f, c ≠ .configGroup id target f) → c ≠ .deviceReset → t.configs = s.configs)

/-- 10.1, R170: the record of a well-formed command of a ring reads back as that command, with every operand at every value its field
admits. -/
def Obligations.RecordRoundTrip : Prop :=
  ∀ (i : Instr) (bytes : List Byte), wellFormed i = true → encodeRecord i = some bytes → decodeRecord bytes = some i
end

