-- ==== Sys2Proof/Laws/State.lean ====
section
/-! SUPPORT. Laws/State.lean: what each basic update of the state changes, and that it changes no other field: one lemma per field
per update, true by rfl. -/

namespace Sys2Proof.Machine

/-! ## Tables -/

theorem vmap_getElem {α β : Type} {n : Nat} (f : Fin n → α → β) (v : Vector α n) (i : Fin n) :
    (vmap f v)[i] = f i v[i] := by simp [vmap]

@[simp] theorem vmap_getElem_nat {α β : Type} {n : Nat} (f : Fin n → α → β) (v : Vector α n) (i : Nat) (h : i < n) :
    (vmap f v)[i] = f ⟨i, h⟩ v[i] := by simp [vmap]

theorem vmod_getElem {α : Type} {n : Nat} (v : Vector α n) (i j : Fin n) (f : α → α) :
    (vmod v i f)[j] = if j = i then f v[i] else v[j] := by
  by_cases h : j = i
  · subst h; simp [vmod]
  · have hne : i.val ≠ j.val := fun e => h (Fin.ext e.symm)
    simp [vmod, h, hne]

theorem vmod_getElem_self {α : Type} {n : Nat} (v : Vector α n) (i : Fin n) (f : α → α) : (vmod v i f)[i] = f v[i] :=
  (vmod_getElem v i i f).trans (if_pos rfl)

theorem vmod_getElem_ne {α : Type} {n : Nat} (v : Vector α n) {i j : Fin n} (f : α → α) (h : j ≠ i) :
    (vmod v i f)[j] = v[j] := (vmod_getElem v i j f).trans (if_neg h)

@[simp] theorem vmod_getElem_val_self {α : Type} {n : Nat} (v : Vector α n) (i : Fin n) (f : α → α) :
    (vmod v i f)[i.val] = f v[i.val] := vmod_getElem_self v i f

/-- Two tables are equal when their rows are. -/
theorem table_ext {α : Type} {n : Nat} {v w : Vector α n} (h : ∀ i : Fin n, v[i] = w[i]) : v = w :=
  Vector.ext fun i hi => h ⟨i, hi⟩

/-! ## Rows an update changes -/

@[simp] theorem emit_link (m : LinkMsg) (s : State) : (emit m s).link = s.link ++ [m] := rfl
@[simp] theorem place_holding (r : CompRecord) (s : State) : (place r s).holding = s.holding ++ [r] := rfl
@[simp] theorem modCp_cp (f : CommandProcessor → CommandProcessor) (s : State) : (modCp f s).cp = f s.cp := rfl
@[simp] theorem latchDivider_divider (s : State) : (latchDivider s).divider = s.dividerHeld := rfl

theorem modJob_get (c d : CtxId) (f : Job → Job) (s : State) :
    (modJob c f s).jobs[d] = if d = c then s.jobs[c].map f else s.jobs[d] := vmod_getElem _ _ _ _

theorem modJob_get_self (c : CtxId) (f : Job → Job) (s : State) : (modJob c f s).jobs[c] = s.jobs[c].map f :=
  vmod_getElem_self _ _ _

theorem modJob_get_ne {c d : CtxId} (f : Job → Job) (s : State) (h : d ≠ c) : (modJob c f s).jobs[d] = s.jobs[d] :=
  vmod_getElem_ne _ _ h

theorem setJobState_get (c d : CtxId) (st : JobState) (s : State) :
    (setJobState c st s).jobs[d] = if d = c then s.jobs[c].map (fun j => { j with state := st }) else s.jobs[d] :=
  vmod_getElem _ _ _ _

theorem modGroup_get (g h : GroupId) (f : GroupState → GroupState) (s : State) :
    (modGroup g f s).groups[h] = if h = g then f s.groups[g] else s.groups[h] := vmod_getElem _ _ _ _

theorem modGroup_get_self (g : GroupId) (f : GroupState → GroupState) (s : State) :
    (modGroup g f s).groups[g] = f s.groups[g] := vmod_getElem_self _ _ _

theorem modGroup_get_ne {g h : GroupId} (f : GroupState → GroupState) (s : State) (n : h ≠ g) :
    (modGroup g f s).groups[h] = s.groups[h] := vmod_getElem_ne _ _ n

theorem setSlot_get (i k : SlotId) (st : SlotState) (s : State) :
    (setSlot i st s).slots[k] = if k = i then { s.slots[i] with state := st } else s.slots[k] := vmod_getElem _ _ _ _

theorem releaseRing_get (c : CtxId) (i : SlotId) (s : State) :
    (releaseRing c s).slots[i] = { s.slots[i] with state := releasedState c s.slots[i].state } := vmap_getElem _ _ _

theorem releaseFiring_get (c : CtxId) (i : SlotId) (s : State) :
    (releaseFiring c s).slots[i] = { s.slots[i] with state := firingReleased c s.slots[i].state } := vmap_getElem _ _ _

@[simp] theorem setWait_slotWait (l : List CtxId) (s : State) : (setWait l s).slotWait = l := rfl
@[simp] theorem setEndQueue_endQueue (l : List CtxId) (s : State) : (setEndQueue l s).endQueue = l := rfl
@[simp] theorem setEligible_eligible (l : List GroupId) (s : State) : (setEligible l s).eligible = l := rfl
@[simp] theorem queueEnd_endQueue (c : CtxId) (s : State) : (queueEnd c s).endQueue = s.endQueue ++ [c] := rfl
@[simp] theorem setLastServed_lastServed (g : GroupId) (s : State) : (setLastServed g s).lastServed = g := rfl

theorem readyWaiters_get (c : CtxId) (g : GroupId) (s : State) :
    (readyWaiters c s).groups[g] = { s.groups[g] with waiters := s.groups[g].waiters.map (readyWaiter c) } :=
  vmap_getElem _ _ _

theorem dropFromList_get (c : CtxId) (g h : GroupId) (s : State) :
    (dropFromList c g s).lists[h] = if h = g then s.lists[g].filter (fun d => decide (d ≠ c)) else s.lists[h] :=
  vmod_getElem _ _ _ _

theorem joinList_get (c : CtxId) (g h : GroupId) (s : State) :
    (joinList c g s).lists[h] = if h = g then s.lists[g] ++ [c] else s.lists[h] := vmod_getElem _ _ _ _

theorem startClocks_get (g : GroupId) (s : State) :
    (startClocks s).groups[g] = { s.groups[g] with clock := initialClock s.configs[g] s.clock.tick } := vmap_getElem _ _ _

/-! ## Fields an update leaves alone -/

@[simp] theorem emit_clock (m : LinkMsg) (s : State) : (emit m s).clock = s.clock := rfl
@[simp] theorem emit_inReset (m : LinkMsg) (s : State) : (emit m s).inReset = s.inReset := rfl
@[simp] theorem emit_run (m : LinkMsg) (s : State) : (emit m s).run = s.run := rfl
@[simp] theorem emit_resetting (m : LinkMsg) (s : State) : (emit m s).resetting = s.resetting := rfl
@[simp] theorem emit_fetchLimit (m : LinkMsg) (s : State) : (emit m s).fetchLimit = s.fetchLimit := rfl
@[simp] theorem emit_dividerHeld (m : LinkMsg) (s : State) : (emit m s).dividerHeld = s.dividerHeld := rfl
@[simp] theorem emit_divider (m : LinkMsg) (s : State) : (emit m s).divider = s.divider := rfl
@[simp] theorem emit_fault (m : LinkMsg) (s : State) : (emit m s).fault = s.fault := rfl
@[simp] theorem emit_jobs (m : LinkMsg) (s : State) : (emit m s).jobs = s.jobs := rfl
@[simp] theorem emit_lists (m : LinkMsg) (s : State) : (emit m s).lists = s.lists := rfl
@[simp] theorem emit_endQueue (m : LinkMsg) (s : State) : (emit m s).endQueue = s.endQueue := rfl
@[simp] theorem emit_slots (m : LinkMsg) (s : State) : (emit m s).slots = s.slots := rfl
@[simp] theorem emit_slotWait (m : LinkMsg) (s : State) : (emit m s).slotWait = s.slotWait := rfl
@[simp] theorem emit_tracker (m : LinkMsg) (s : State) : (emit m s).tracker = s.tracker := rfl
@[simp] theorem emit_lastServed (m : LinkMsg) (s : State) : (emit m s).lastServed = s.lastServed := rfl
@[simp] theorem emit_lateReads (m : LinkMsg) (s : State) : (emit m s).lateReads = s.lateReads := rfl
@[simp] theorem emit_configs (m : LinkMsg) (s : State) : (emit m s).configs = s.configs := rfl
@[simp] theorem emit_groups (m : LinkMsg) (s : State) : (emit m s).groups = s.groups := rfl
@[simp] theorem emit_eligible (m : LinkMsg) (s : State) : (emit m s).eligible = s.eligible := rfl
@[simp] theorem emit_profiles (m : LinkMsg) (s : State) : (emit m s).profiles = s.profiles := rfl
@[simp] theorem emit_lanes (m : LinkMsg) (s : State) : (emit m s).lanes = s.lanes := rfl
@[simp] theorem emit_pulses (m : LinkMsg) (s : State) : (emit m s).pulses = s.pulses := rfl
@[simp] theorem emit_cp (m : LinkMsg) (s : State) : (emit m s).cp = s.cp := rfl
@[simp] theorem emit_comp (m : LinkMsg) (s : State) : (emit m s).comp = s.comp := rfl
@[simp] theorem emit_holding (m : LinkMsg) (s : State) : (emit m s).holding = s.holding := rfl
@[simp] theorem emit_intMod (m : LinkMsg) (s : State) : (emit m s).intMod = s.intMod := rfl
@[simp] theorem emit_condition (m : LinkMsg) (s : State) : (emit m s).condition = s.condition := rfl
@[simp] theorem emit_pending (m : LinkMsg) (s : State) : (emit m s).pending = s.pending := rfl

@[simp] theorem place_clock (r : CompRecord) (s : State) : (place r s).clock = s.clock := rfl
@[simp] theorem place_inReset (r : CompRecord) (s : State) : (place r s).inReset = s.inReset := rfl
@[simp] theorem place_run (r : CompRecord) (s : State) : (place r s).run = s.run := rfl
@[simp] theorem place_resetting (r : CompRecord) (s : State) : (place r s).resetting = s.resetting := rfl
@[simp] theorem place_fetchLimit (r : CompRecord) (s : State) : (place r s).fetchLimit = s.fetchLimit := rfl
@[simp] theorem place_dividerHeld (r : CompRecord) (s : State) : (place r s).dividerHeld = s.dividerHeld := rfl
@[simp] theorem place_divider (r : CompRecord) (s : State) : (place r s).divider = s.divider := rfl
@[simp] theorem place_fault (r : CompRecord) (s : State) : (place r s).fault = s.fault := rfl
@[simp] theorem place_jobs (r : CompRecord) (s : State) : (place r s).jobs = s.jobs := rfl
@[simp] theorem place_lists (r : CompRecord) (s : State) : (place r s).lists = s.lists := rfl
@[simp] theorem place_endQueue (r : CompRecord) (s : State) : (place r s).endQueue = s.endQueue := rfl
@[simp] theorem place_slots (r : CompRecord) (s : State) : (place r s).slots = s.slots := rfl
@[simp] theorem place_slotWait (r : CompRecord) (s : State) : (place r s).slotWait = s.slotWait := rfl
@[simp] theorem place_tracker (r : CompRecord) (s : State) : (place r s).tracker = s.tracker := rfl
@[simp] theorem place_lastServed (r : CompRecord) (s : State) : (place r s).lastServed = s.lastServed := rfl
@[simp] theorem place_lateReads (r : CompRecord) (s : State) : (place r s).lateReads = s.lateReads := rfl
@[simp] theorem place_configs (r : CompRecord) (s : State) : (place r s).configs = s.configs := rfl
@[simp] theorem place_groups (r : CompRecord) (s : State) : (place r s).groups = s.groups := rfl
@[simp] theorem place_eligible (r : CompRecord) (s : State) : (place r s).eligible = s.eligible := rfl
@[simp] theorem place_profiles (r : CompRecord) (s : State) : (place r s).profiles = s.profiles := rfl
@[simp] theorem place_lanes (r : CompRecord) (s : State) : (place r s).lanes = s.lanes := rfl
@[simp] theorem place_pulses (r : CompRecord) (s : State) : (place r s).pulses = s.pulses := rfl
@[simp] theorem place_cp (r : CompRecord) (s : State) : (place r s).cp = s.cp := rfl
@[simp] theorem place_comp (r : CompRecord) (s : State) : (place r s).comp = s.comp := rfl
@[simp] theorem place_intMod (r : CompRecord) (s : State) : (place r s).intMod = s.intMod := rfl
@[simp] theorem place_condition (r : CompRecord) (s : State) : (place r s).condition = s.condition := rfl
@[simp] theorem place_link (r : CompRecord) (s : State) : (place r s).link = s.link := rfl
@[simp] theorem place_pending (r : CompRecord) (s : State) : (place r s).pending = s.pending := rfl

@[simp] theorem modJob_clock (c : CtxId) (f : Job → Job) (s : State) : (modJob c f s).clock = s.clock := rfl
@[simp] theorem modJob_inReset (c : CtxId) (f : Job → Job) (s : State) : (modJob c f s).inReset = s.inReset := rfl
@[simp] theorem modJob_run (c : CtxId) (f : Job → Job) (s : State) : (modJob c f s).run = s.run := rfl
@[simp] theorem modJob_resetting (c : CtxId) (f : Job → Job) (s : State) : (modJob c f s).resetting = s.resetting := rfl
@[simp] theorem modJob_fetchLimit (c : CtxId) (f : Job → Job) (s : State) : (modJob c f s).fetchLimit = s.fetchLimit := rfl
@[simp] theorem modJob_dividerHeld (c : CtxId) (f : Job → Job) (s : State) : (modJob c f s).dividerHeld = s.dividerHeld := rfl
@[simp] theorem modJob_divider (c : CtxId) (f : Job → Job) (s : State) : (modJob c f s).divider = s.divider := rfl
@[simp] theorem modJob_fault (c : CtxId) (f : Job → Job) (s : State) : (modJob c f s).fault = s.fault := rfl
@[simp] theorem modJob_lists (c : CtxId) (f : Job → Job) (s : State) : (modJob c f s).lists = s.lists := rfl
@[simp] theorem modJob_endQueue (c : CtxId) (f : Job → Job) (s : State) : (modJob c f s).endQueue = s.endQueue := rfl
@[simp] theorem modJob_slots (c : CtxId) (f : Job → Job) (s : State) : (modJob c f s).slots = s.slots := rfl
@[simp] theorem modJob_slotWait (c : CtxId) (f : Job → Job) (s : State) : (modJob c f s).slotWait = s.slotWait := rfl
@[simp] theorem modJob_tracker (c : CtxId) (f : Job → Job) (s : State) : (modJob c f s).tracker = s.tracker := rfl
@[simp] theorem modJob_lastServed (c : CtxId) (f : Job → Job) (s : State) : (modJob c f s).lastServed = s.lastServed := rfl
@[simp] theorem modJob_lateReads (c : CtxId) (f : Job → Job) (s : State) : (modJob c f s).lateReads = s.lateReads := rfl
@[simp] theorem modJob_configs (c : CtxId) (f : Job → Job) (s : State) : (modJob c f s).configs = s.configs := rfl
@[simp] theorem modJob_groups (c : CtxId) (f : Job → Job) (s : State) : (modJob c f s).groups = s.groups := rfl
@[simp] theorem modJob_eligible (c : CtxId) (f : Job → Job) (s : State) : (modJob c f s).eligible = s.eligible := rfl
@[simp] theorem modJob_profiles (c : CtxId) (f : Job → Job) (s : State) : (modJob c f s).profiles = s.profiles := rfl
@[simp] theorem modJob_lanes (c : CtxId) (f : Job → Job) (s : State) : (modJob c f s).lanes = s.lanes := rfl
@[simp] theorem modJob_pulses (c : CtxId) (f : Job → Job) (s : State) : (modJob c f s).pulses = s.pulses := rfl
@[simp] theorem modJob_cp (c : CtxId) (f : Job → Job) (s : State) : (modJob c f s).cp = s.cp := rfl
@[simp] theorem modJob_comp (c : CtxId) (f : Job → Job) (s : State) : (modJob c f s).comp = s.comp := rfl
@[simp] theorem modJob_holding (c : CtxId) (f : Job → Job) (s : State) : (modJob c f s).holding = s.holding := rfl
@[simp] theorem modJob_intMod (c : CtxId) (f : Job → Job) (s : State) : (modJob c f s).intMod = s.intMod := rfl
@[simp] theorem modJob_condition (c : CtxId) (f : Job → Job) (s : State) : (modJob c f s).condition = s.condition := rfl
@[simp] theorem modJob_link (c : CtxId) (f : Job → Job) (s : State) : (modJob c f s).link = s.link := rfl
@[simp] theorem modJob_pending (c : CtxId) (f : Job → Job) (s : State) : (modJob c f s).pending = s.pending := rfl

@[simp] theorem setJobState_clock (c : CtxId) (st : JobState) (s : State) : (setJobState c st s).clock = s.clock := rfl
@[simp] theorem setJobState_inReset (c : CtxId) (st : JobState) (s : State) : (setJobState c st s).inReset = s.inReset := rfl
@[simp] theorem setJobState_run (c : CtxId) (st : JobState) (s : State) : (setJobState c st s).run = s.run := rfl
@[simp] theorem setJobState_resetting (c : CtxId) (st : JobState) (s : State) : (setJobState c st s).resetting = s.resetting := rfl
@[simp] theorem setJobState_fetchLimit (c : CtxId) (st : JobState) (s : State) : (setJobState c st s).fetchLimit = s.fetchLimit := rfl
@[simp] theorem setJobState_dividerHeld (c : CtxId) (st : JobState) (s : State) : (setJobState c st s).dividerHeld = s.dividerHeld := rfl
@[simp] theorem setJobState_divider (c : CtxId) (st : JobState) (s : State) : (setJobState c st s).divider = s.divider := rfl
@[simp] theorem setJobState_fault (c : CtxId) (st : JobState) (s : State) : (setJobState c st s).fault = s.fault := rfl
@[simp] theorem setJobState_lists (c : CtxId) (st : JobState) (s : State) : (setJobState c st s).lists = s.lists := rfl
@[simp] theorem setJobState_endQueue (c : CtxId) (st : JobState) (s : State) : (setJobState c st s).endQueue = s.endQueue := rfl
@[simp] theorem setJobState_slots (c : CtxId) (st : JobState) (s : State) : (setJobState c st s).slots = s.slots := rfl
@[simp] theorem setJobState_slotWait (c : CtxId) (st : JobState) (s : State) : (setJobState c st s).slotWait = s.slotWait := rfl
@[simp] theorem setJobState_tracker (c : CtxId) (st : JobState) (s : State) : (setJobState c st s).tracker = s.tracker := rfl
@[simp] theorem setJobState_lastServed (c : CtxId) (st : JobState) (s : State) : (setJobState c st s).lastServed = s.lastServed := rfl
@[simp] theorem setJobState_lateReads (c : CtxId) (st : JobState) (s : State) : (setJobState c st s).lateReads = s.lateReads := rfl
@[simp] theorem setJobState_configs (c : CtxId) (st : JobState) (s : State) : (setJobState c st s).configs = s.configs := rfl
@[simp] theorem setJobState_groups (c : CtxId) (st : JobState) (s : State) : (setJobState c st s).groups = s.groups := rfl
@[simp] theorem setJobState_eligible (c : CtxId) (st : JobState) (s : State) : (setJobState c st s).eligible = s.eligible := rfl
@[simp] theorem setJobState_profiles (c : CtxId) (st : JobState) (s : State) : (setJobState c st s).profiles = s.profiles := rfl
@[simp] theorem setJobState_lanes (c : CtxId) (st : JobState) (s : State) : (setJobState c st s).lanes = s.lanes := rfl
@[simp] theorem setJobState_pulses (c : CtxId) (st : JobState) (s : State) : (setJobState c st s).pulses = s.pulses := rfl
@[simp] theorem setJobState_cp (c : CtxId) (st : JobState) (s : State) : (setJobState c st s).cp = s.cp := rfl
@[simp] theorem setJobState_comp (c : CtxId) (st : JobState) (s : State) : (setJobState c st s).comp = s.comp := rfl
@[simp] theorem setJobState_holding (c : CtxId) (st : JobState) (s : State) : (setJobState c st s).holding = s.holding := rfl
@[simp] theorem setJobState_intMod (c : CtxId) (st : JobState) (s : State) : (setJobState c st s).intMod = s.intMod := rfl
@[simp] theorem setJobState_condition (c : CtxId) (st : JobState) (s : State) : (setJobState c st s).condition = s.condition := rfl
@[simp] theorem setJobState_link (c : CtxId) (st : JobState) (s : State) : (setJobState c st s).link = s.link := rfl
@[simp] theorem setJobState_pending (c : CtxId) (st : JobState) (s : State) : (setJobState c st s).pending = s.pending := rfl

@[simp] theorem modGroup_clock (g : GroupId) (f : GroupState → GroupState) (s : State) : (modGroup g f s).clock = s.clock := rfl
@[simp] theorem modGroup_inReset (g : GroupId) (f : GroupState → GroupState) (s : State) : (modGroup g f s).inReset = s.inReset := rfl
@[simp] theorem modGroup_run (g : GroupId) (f : GroupState → GroupState) (s : State) : (modGroup g f s).run = s.run := rfl
@[simp] theorem modGroup_resetting (g : GroupId) (f : GroupState → GroupState) (s : State) : (modGroup g f s).resetting = s.resetting := rfl
@[simp] theorem modGroup_fetchLimit (g : GroupId) (f : GroupState → GroupState) (s : State) : (modGroup g f s).fetchLimit = s.fetchLimit := rfl
@[simp] theorem modGroup_dividerHeld (g : GroupId) (f : GroupState → GroupState) (s : State) : (modGroup g f s).dividerHeld = s.dividerHeld := rfl
@[simp] theorem modGroup_divider (g : GroupId) (f : GroupState → GroupState) (s : State) : (modGroup g f s).divider = s.divider := rfl
@[simp] theorem modGroup_fault (g : GroupId) (f : GroupState → GroupState) (s : State) : (modGroup g f s).fault = s.fault := rfl
@[simp] theorem modGroup_jobs (g : GroupId) (f : GroupState → GroupState) (s : State) : (modGroup g f s).jobs = s.jobs := rfl
@[simp] theorem modGroup_lists (g : GroupId) (f : GroupState → GroupState) (s : State) : (modGroup g f s).lists = s.lists := rfl
@[simp] theorem modGroup_endQueue (g : GroupId) (f : GroupState → GroupState) (s : State) : (modGroup g f s).endQueue = s.endQueue := rfl
@[simp] theorem modGroup_slots (g : GroupId) (f : GroupState → GroupState) (s : State) : (modGroup g f s).slots = s.slots := rfl
@[simp] theorem modGroup_slotWait (g : GroupId) (f : GroupState → GroupState) (s : State) : (modGroup g f s).slotWait = s.slotWait := rfl
@[simp] theorem modGroup_tracker (g : GroupId) (f : GroupState → GroupState) (s : State) : (modGroup g f s).tracker = s.tracker := rfl
@[simp] theorem modGroup_lastServed (g : GroupId) (f : GroupState → GroupState) (s : State) : (modGroup g f s).lastServed = s.lastServed := rfl
@[simp] theorem modGroup_lateReads (g : GroupId) (f : GroupState → GroupState) (s : State) : (modGroup g f s).lateReads = s.lateReads := rfl
@[simp] theorem modGroup_configs (g : GroupId) (f : GroupState → GroupState) (s : State) : (modGroup g f s).configs = s.configs := rfl
@[simp] theorem modGroup_eligible (g : GroupId) (f : GroupState → GroupState) (s : State) : (modGroup g f s).eligible = s.eligible := rfl
@[simp] theorem modGroup_profiles (g : GroupId) (f : GroupState → GroupState) (s : State) : (modGroup g f s).profiles = s.profiles := rfl
@[simp] theorem modGroup_lanes (g : GroupId) (f : GroupState → GroupState) (s : State) : (modGroup g f s).lanes = s.lanes := rfl
@[simp] theorem modGroup_pulses (g : GroupId) (f : GroupState → GroupState) (s : State) : (modGroup g f s).pulses = s.pulses := rfl
@[simp] theorem modGroup_cp (g : GroupId) (f : GroupState → GroupState) (s : State) : (modGroup g f s).cp = s.cp := rfl
@[simp] theorem modGroup_comp (g : GroupId) (f : GroupState → GroupState) (s : State) : (modGroup g f s).comp = s.comp := rfl
@[simp] theorem modGroup_holding (g : GroupId) (f : GroupState → GroupState) (s : State) : (modGroup g f s).holding = s.holding := rfl
@[simp] theorem modGroup_intMod (g : GroupId) (f : GroupState → GroupState) (s : State) : (modGroup g f s).intMod = s.intMod := rfl
@[simp] theorem modGroup_condition (g : GroupId) (f : GroupState → GroupState) (s : State) : (modGroup g f s).condition = s.condition := rfl
@[simp] theorem modGroup_link (g : GroupId) (f : GroupState → GroupState) (s : State) : (modGroup g f s).link = s.link := rfl
@[simp] theorem modGroup_pending (g : GroupId) (f : GroupState → GroupState) (s : State) : (modGroup g f s).pending = s.pending := rfl

@[simp] theorem setSlot_clock (i : SlotId) (st : SlotState) (s : State) : (setSlot i st s).clock = s.clock := rfl
@[simp] theorem setSlot_inReset (i : SlotId) (st : SlotState) (s : State) : (setSlot i st s).inReset = s.inReset := rfl
@[simp] theorem setSlot_run (i : SlotId) (st : SlotState) (s : State) : (setSlot i st s).run = s.run := rfl
@[simp] theorem setSlot_resetting (i : SlotId) (st : SlotState) (s : State) : (setSlot i st s).resetting = s.resetting := rfl
@[simp] theorem setSlot_fetchLimit (i : SlotId) (st : SlotState) (s : State) : (setSlot i st s).fetchLimit = s.fetchLimit := rfl
@[simp] theorem setSlot_dividerHeld (i : SlotId) (st : SlotState) (s : State) : (setSlot i st s).dividerHeld = s.dividerHeld := rfl
@[simp] theorem setSlot_divider (i : SlotId) (st : SlotState) (s : State) : (setSlot i st s).divider = s.divider := rfl
@[simp] theorem setSlot_fault (i : SlotId) (st : SlotState) (s : State) : (setSlot i st s).fault = s.fault := rfl
@[simp] theorem setSlot_jobs (i : SlotId) (st : SlotState) (s : State) : (setSlot i st s).jobs = s.jobs := rfl
@[simp] theorem setSlot_lists (i : SlotId) (st : SlotState) (s : State) : (setSlot i st s).lists = s.lists := rfl
@[simp] theorem setSlot_endQueue (i : SlotId) (st : SlotState) (s : State) : (setSlot i st s).endQueue = s.endQueue := rfl
@[simp] theorem setSlot_slotWait (i : SlotId) (st : SlotState) (s : State) : (setSlot i st s).slotWait = s.slotWait := rfl
@[simp] theorem setSlot_tracker (i : SlotId) (st : SlotState) (s : State) : (setSlot i st s).tracker = s.tracker := rfl
@[simp] theorem setSlot_lastServed (i : SlotId) (st : SlotState) (s : State) : (setSlot i st s).lastServed = s.lastServed := rfl
@[simp] theorem setSlot_lateReads (i : SlotId) (st : SlotState) (s : State) : (setSlot i st s).lateReads = s.lateReads := rfl
@[simp] theorem setSlot_configs (i : SlotId) (st : SlotState) (s : State) : (setSlot i st s).configs = s.configs := rfl
@[simp] theorem setSlot_groups (i : SlotId) (st : SlotState) (s : State) : (setSlot i st s).groups = s.groups := rfl
@[simp] theorem setSlot_eligible (i : SlotId) (st : SlotState) (s : State) : (setSlot i st s).eligible = s.eligible := rfl
@[simp] theorem setSlot_profiles (i : SlotId) (st : SlotState) (s : State) : (setSlot i st s).profiles = s.profiles := rfl
@[simp] theorem setSlot_lanes (i : SlotId) (st : SlotState) (s : State) : (setSlot i st s).lanes = s.lanes := rfl
@[simp] theorem setSlot_pulses (i : SlotId) (st : SlotState) (s : State) : (setSlot i st s).pulses = s.pulses := rfl
@[simp] theorem setSlot_cp (i : SlotId) (st : SlotState) (s : State) : (setSlot i st s).cp = s.cp := rfl
@[simp] theorem setSlot_comp (i : SlotId) (st : SlotState) (s : State) : (setSlot i st s).comp = s.comp := rfl
@[simp] theorem setSlot_holding (i : SlotId) (st : SlotState) (s : State) : (setSlot i st s).holding = s.holding := rfl
@[simp] theorem setSlot_intMod (i : SlotId) (st : SlotState) (s : State) : (setSlot i st s).intMod = s.intMod := rfl
@[simp] theorem setSlot_condition (i : SlotId) (st : SlotState) (s : State) : (setSlot i st s).condition = s.condition := rfl
@[simp] theorem setSlot_link (i : SlotId) (st : SlotState) (s : State) : (setSlot i st s).link = s.link := rfl
@[simp] theorem setSlot_pending (i : SlotId) (st : SlotState) (s : State) : (setSlot i st s).pending = s.pending := rfl

@[simp] theorem setPulse_clock (l : LaneId) (p : Pulse) (s : State) : (setPulse l p s).clock = s.clock := rfl
@[simp] theorem setPulse_inReset (l : LaneId) (p : Pulse) (s : State) : (setPulse l p s).inReset = s.inReset := rfl
@[simp] theorem setPulse_run (l : LaneId) (p : Pulse) (s : State) : (setPulse l p s).run = s.run := rfl
@[simp] theorem setPulse_resetting (l : LaneId) (p : Pulse) (s : State) : (setPulse l p s).resetting = s.resetting := rfl
@[simp] theorem setPulse_fetchLimit (l : LaneId) (p : Pulse) (s : State) : (setPulse l p s).fetchLimit = s.fetchLimit := rfl
@[simp] theorem setPulse_dividerHeld (l : LaneId) (p : Pulse) (s : State) : (setPulse l p s).dividerHeld = s.dividerHeld := rfl
@[simp] theorem setPulse_divider (l : LaneId) (p : Pulse) (s : State) : (setPulse l p s).divider = s.divider := rfl
@[simp] theorem setPulse_fault (l : LaneId) (p : Pulse) (s : State) : (setPulse l p s).fault = s.fault := rfl
@[simp] theorem setPulse_jobs (l : LaneId) (p : Pulse) (s : State) : (setPulse l p s).jobs = s.jobs := rfl
@[simp] theorem setPulse_lists (l : LaneId) (p : Pulse) (s : State) : (setPulse l p s).lists = s.lists := rfl
@[simp] theorem setPulse_endQueue (l : LaneId) (p : Pulse) (s : State) : (setPulse l p s).endQueue = s.endQueue := rfl
@[simp] theorem setPulse_slots (l : LaneId) (p : Pulse) (s : State) : (setPulse l p s).slots = s.slots := rfl
@[simp] theorem setPulse_slotWait (l : LaneId) (p : Pulse) (s : State) : (setPulse l p s).slotWait = s.slotWait := rfl
@[simp] theorem setPulse_tracker (l : LaneId) (p : Pulse) (s : State) : (setPulse l p s).tracker = s.tracker := rfl
@[simp] theorem setPulse_lastServed (l : LaneId) (p : Pulse) (s : State) : (setPulse l p s).lastServed = s.lastServed := rfl
@[simp] theorem setPulse_lateReads (l : LaneId) (p : Pulse) (s : State) : (setPulse l p s).lateReads = s.lateReads := rfl
@[simp] theorem setPulse_configs (l : LaneId) (p : Pulse) (s : State) : (setPulse l p s).configs = s.configs := rfl
@[simp] theorem setPulse_groups (l : LaneId) (p : Pulse) (s : State) : (setPulse l p s).groups = s.groups := rfl
@[simp] theorem setPulse_eligible (l : LaneId) (p : Pulse) (s : State) : (setPulse l p s).eligible = s.eligible := rfl
@[simp] theorem setPulse_profiles (l : LaneId) (p : Pulse) (s : State) : (setPulse l p s).profiles = s.profiles := rfl
@[simp] theorem setPulse_lanes (l : LaneId) (p : Pulse) (s : State) : (setPulse l p s).lanes = s.lanes := rfl
@[simp] theorem setPulse_cp (l : LaneId) (p : Pulse) (s : State) : (setPulse l p s).cp = s.cp := rfl
@[simp] theorem setPulse_comp (l : LaneId) (p : Pulse) (s : State) : (setPulse l p s).comp = s.comp := rfl
@[simp] theorem setPulse_holding (l : LaneId) (p : Pulse) (s : State) : (setPulse l p s).holding = s.holding := rfl
@[simp] theorem setPulse_intMod (l : LaneId) (p : Pulse) (s : State) : (setPulse l p s).intMod = s.intMod := rfl
@[simp] theorem setPulse_condition (l : LaneId) (p : Pulse) (s : State) : (setPulse l p s).condition = s.condition := rfl
@[simp] theorem setPulse_link (l : LaneId) (p : Pulse) (s : State) : (setPulse l p s).link = s.link := rfl
@[simp] theorem setPulse_pending (l : LaneId) (p : Pulse) (s : State) : (setPulse l p s).pending = s.pending := rfl

@[simp] theorem modCp_clock (f : CommandProcessor → CommandProcessor) (s : State) : (modCp f s).clock = s.clock := rfl
@[simp] theorem modCp_inReset (f : CommandProcessor → CommandProcessor) (s : State) : (modCp f s).inReset = s.inReset := rfl
@[simp] theorem modCp_run (f : CommandProcessor → CommandProcessor) (s : State) : (modCp f s).run = s.run := rfl
@[simp] theorem modCp_resetting (f : CommandProcessor → CommandProcessor) (s : State) : (modCp f s).resetting = s.resetting := rfl
@[simp] theorem modCp_fetchLimit (f : CommandProcessor → CommandProcessor) (s : State) : (modCp f s).fetchLimit = s.fetchLimit := rfl
@[simp] theorem modCp_dividerHeld (f : CommandProcessor → CommandProcessor) (s : State) : (modCp f s).dividerHeld = s.dividerHeld := rfl
@[simp] theorem modCp_divider (f : CommandProcessor → CommandProcessor) (s : State) : (modCp f s).divider = s.divider := rfl
@[simp] theorem modCp_fault (f : CommandProcessor → CommandProcessor) (s : State) : (modCp f s).fault = s.fault := rfl
@[simp] theorem modCp_jobs (f : CommandProcessor → CommandProcessor) (s : State) : (modCp f s).jobs = s.jobs := rfl
@[simp] theorem modCp_lists (f : CommandProcessor → CommandProcessor) (s : State) : (modCp f s).lists = s.lists := rfl
@[simp] theorem modCp_endQueue (f : CommandProcessor → CommandProcessor) (s : State) : (modCp f s).endQueue = s.endQueue := rfl
@[simp] theorem modCp_slots (f : CommandProcessor → CommandProcessor) (s : State) : (modCp f s).slots = s.slots := rfl
@[simp] theorem modCp_slotWait (f : CommandProcessor → CommandProcessor) (s : State) : (modCp f s).slotWait = s.slotWait := rfl
@[simp] theorem modCp_tracker (f : CommandProcessor → CommandProcessor) (s : State) : (modCp f s).tracker = s.tracker := rfl
@[simp] theorem modCp_lastServed (f : CommandProcessor → CommandProcessor) (s : State) : (modCp f s).lastServed = s.lastServed := rfl
@[simp] theorem modCp_lateReads (f : CommandProcessor → CommandProcessor) (s : State) : (modCp f s).lateReads = s.lateReads := rfl
@[simp] theorem modCp_configs (f : CommandProcessor → CommandProcessor) (s : State) : (modCp f s).configs = s.configs := rfl
@[simp] theorem modCp_groups (f : CommandProcessor → CommandProcessor) (s : State) : (modCp f s).groups = s.groups := rfl
@[simp] theorem modCp_eligible (f : CommandProcessor → CommandProcessor) (s : State) : (modCp f s).eligible = s.eligible := rfl
@[simp] theorem modCp_profiles (f : CommandProcessor → CommandProcessor) (s : State) : (modCp f s).profiles = s.profiles := rfl
@[simp] theorem modCp_lanes (f : CommandProcessor → CommandProcessor) (s : State) : (modCp f s).lanes = s.lanes := rfl
@[simp] theorem modCp_pulses (f : CommandProcessor → CommandProcessor) (s : State) : (modCp f s).pulses = s.pulses := rfl
@[simp] theorem modCp_comp (f : CommandProcessor → CommandProcessor) (s : State) : (modCp f s).comp = s.comp := rfl
@[simp] theorem modCp_holding (f : CommandProcessor → CommandProcessor) (s : State) : (modCp f s).holding = s.holding := rfl
@[simp] theorem modCp_intMod (f : CommandProcessor → CommandProcessor) (s : State) : (modCp f s).intMod = s.intMod := rfl
@[simp] theorem modCp_condition (f : CommandProcessor → CommandProcessor) (s : State) : (modCp f s).condition = s.condition := rfl
@[simp] theorem modCp_link (f : CommandProcessor → CommandProcessor) (s : State) : (modCp f s).link = s.link := rfl
@[simp] theorem modCp_pending (f : CommandProcessor → CommandProcessor) (s : State) : (modCp f s).pending = s.pending := rfl

@[simp] theorem advance_inReset (k : Nat) (s : State) : (advance k s).inReset = s.inReset := rfl
@[simp] theorem advance_run (k : Nat) (s : State) : (advance k s).run = s.run := rfl
@[simp] theorem advance_resetting (k : Nat) (s : State) : (advance k s).resetting = s.resetting := rfl
@[simp] theorem advance_fetchLimit (k : Nat) (s : State) : (advance k s).fetchLimit = s.fetchLimit := rfl
@[simp] theorem advance_dividerHeld (k : Nat) (s : State) : (advance k s).dividerHeld = s.dividerHeld := rfl
@[simp] theorem advance_divider (k : Nat) (s : State) : (advance k s).divider = s.divider := rfl
@[simp] theorem advance_fault (k : Nat) (s : State) : (advance k s).fault = s.fault := rfl
@[simp] theorem advance_jobs (k : Nat) (s : State) : (advance k s).jobs = s.jobs := rfl
@[simp] theorem advance_lists (k : Nat) (s : State) : (advance k s).lists = s.lists := rfl
@[simp] theorem advance_endQueue (k : Nat) (s : State) : (advance k s).endQueue = s.endQueue := rfl
@[simp] theorem advance_slots (k : Nat) (s : State) : (advance k s).slots = s.slots := rfl
@[simp] theorem advance_slotWait (k : Nat) (s : State) : (advance k s).slotWait = s.slotWait := rfl
@[simp] theorem advance_tracker (k : Nat) (s : State) : (advance k s).tracker = s.tracker := rfl
@[simp] theorem advance_lastServed (k : Nat) (s : State) : (advance k s).lastServed = s.lastServed := rfl
@[simp] theorem advance_lateReads (k : Nat) (s : State) : (advance k s).lateReads = s.lateReads := rfl
@[simp] theorem advance_configs (k : Nat) (s : State) : (advance k s).configs = s.configs := rfl
@[simp] theorem advance_groups (k : Nat) (s : State) : (advance k s).groups = s.groups := rfl
@[simp] theorem advance_eligible (k : Nat) (s : State) : (advance k s).eligible = s.eligible := rfl
@[simp] theorem advance_profiles (k : Nat) (s : State) : (advance k s).profiles = s.profiles := rfl
@[simp] theorem advance_lanes (k : Nat) (s : State) : (advance k s).lanes = s.lanes := rfl
@[simp] theorem advance_pulses (k : Nat) (s : State) : (advance k s).pulses = s.pulses := rfl
@[simp] theorem advance_cp (k : Nat) (s : State) : (advance k s).cp = s.cp := rfl
@[simp] theorem advance_comp (k : Nat) (s : State) : (advance k s).comp = s.comp := rfl
@[simp] theorem advance_holding (k : Nat) (s : State) : (advance k s).holding = s.holding := rfl
@[simp] theorem advance_intMod (k : Nat) (s : State) : (advance k s).intMod = s.intMod := rfl
@[simp] theorem advance_condition (k : Nat) (s : State) : (advance k s).condition = s.condition := rfl
@[simp] theorem advance_link (k : Nat) (s : State) : (advance k s).link = s.link := rfl
@[simp] theorem advance_pending (k : Nat) (s : State) : (advance k s).pending = s.pending := rfl

@[simp] theorem latchDivider_inReset (s : State) : (latchDivider s).inReset = s.inReset := rfl
@[simp] theorem latchDivider_run (s : State) : (latchDivider s).run = s.run := rfl
@[simp] theorem latchDivider_resetting (s : State) : (latchDivider s).resetting = s.resetting := rfl
@[simp] theorem latchDivider_fetchLimit (s : State) : (latchDivider s).fetchLimit = s.fetchLimit := rfl
@[simp] theorem latchDivider_dividerHeld (s : State) : (latchDivider s).dividerHeld = s.dividerHeld := rfl
@[simp] theorem latchDivider_fault (s : State) : (latchDivider s).fault = s.fault := rfl
@[simp] theorem latchDivider_jobs (s : State) : (latchDivider s).jobs = s.jobs := rfl
@[simp] theorem latchDivider_lists (s : State) : (latchDivider s).lists = s.lists := rfl
@[simp] theorem latchDivider_endQueue (s : State) : (latchDivider s).endQueue = s.endQueue := rfl
@[simp] theorem latchDivider_slots (s : State) : (latchDivider s).slots = s.slots := rfl
@[simp] theorem latchDivider_slotWait (s : State) : (latchDivider s).slotWait = s.slotWait := rfl
@[simp] theorem latchDivider_tracker (s : State) : (latchDivider s).tracker = s.tracker := rfl
@[simp] theorem latchDivider_lastServed (s : State) : (latchDivider s).lastServed = s.lastServed := rfl
@[simp] theorem latchDivider_lateReads (s : State) : (latchDivider s).lateReads = s.lateReads := rfl
@[simp] theorem latchDivider_configs (s : State) : (latchDivider s).configs = s.configs := rfl
@[simp] theorem latchDivider_groups (s : State) : (latchDivider s).groups = s.groups := rfl
@[simp] theorem latchDivider_eligible (s : State) : (latchDivider s).eligible = s.eligible := rfl
@[simp] theorem latchDivider_profiles (s : State) : (latchDivider s).profiles = s.profiles := rfl
@[simp] theorem latchDivider_lanes (s : State) : (latchDivider s).lanes = s.lanes := rfl
@[simp] theorem latchDivider_pulses (s : State) : (latchDivider s).pulses = s.pulses := rfl
@[simp] theorem latchDivider_cp (s : State) : (latchDivider s).cp = s.cp := rfl
@[simp] theorem latchDivider_comp (s : State) : (latchDivider s).comp = s.comp := rfl
@[simp] theorem latchDivider_holding (s : State) : (latchDivider s).holding = s.holding := rfl
@[simp] theorem latchDivider_intMod (s : State) : (latchDivider s).intMod = s.intMod := rfl
@[simp] theorem latchDivider_condition (s : State) : (latchDivider s).condition = s.condition := rfl
@[simp] theorem latchDivider_link (s : State) : (latchDivider s).link = s.link := rfl
@[simp] theorem latchDivider_pending (s : State) : (latchDivider s).pending = s.pending := rfl

@[simp] theorem releaseRing_clock (c : CtxId) (s : State) : (releaseRing c s).clock = s.clock := rfl
@[simp] theorem releaseRing_inReset (c : CtxId) (s : State) : (releaseRing c s).inReset = s.inReset := rfl
@[simp] theorem releaseRing_run (c : CtxId) (s : State) : (releaseRing c s).run = s.run := rfl
@[simp] theorem releaseRing_resetting (c : CtxId) (s : State) : (releaseRing c s).resetting = s.resetting := rfl
@[simp] theorem releaseRing_fetchLimit (c : CtxId) (s : State) : (releaseRing c s).fetchLimit = s.fetchLimit := rfl
@[simp] theorem releaseRing_dividerHeld (c : CtxId) (s : State) : (releaseRing c s).dividerHeld = s.dividerHeld := rfl
@[simp] theorem releaseRing_divider (c : CtxId) (s : State) : (releaseRing c s).divider = s.divider := rfl
@[simp] theorem releaseRing_fault (c : CtxId) (s : State) : (releaseRing c s).fault = s.fault := rfl
@[simp] theorem releaseRing_jobs (c : CtxId) (s : State) : (releaseRing c s).jobs = s.jobs := rfl
@[simp] theorem releaseRing_lists (c : CtxId) (s : State) : (releaseRing c s).lists = s.lists := rfl
@[simp] theorem releaseRing_endQueue (c : CtxId) (s : State) : (releaseRing c s).endQueue = s.endQueue := rfl
@[simp] theorem releaseRing_slotWait (c : CtxId) (s : State) : (releaseRing c s).slotWait = s.slotWait := rfl
@[simp] theorem releaseRing_tracker (c : CtxId) (s : State) : (releaseRing c s).tracker = s.tracker := rfl
@[simp] theorem releaseRing_lastServed (c : CtxId) (s : State) : (releaseRing c s).lastServed = s.lastServed := rfl
@[simp] theorem releaseRing_lateReads (c : CtxId) (s : State) : (releaseRing c s).lateReads = s.lateReads := rfl
@[simp] theorem releaseRing_configs (c : CtxId) (s : State) : (releaseRing c s).configs = s.configs := rfl
@[simp] theorem releaseRing_groups (c : CtxId) (s : State) : (releaseRing c s).groups = s.groups := rfl
@[simp] theorem releaseRing_eligible (c : CtxId) (s : State) : (releaseRing c s).eligible = s.eligible := rfl
@[simp] theorem releaseRing_profiles (c : CtxId) (s : State) : (releaseRing c s).profiles = s.profiles := rfl
@[simp] theorem releaseRing_lanes (c : CtxId) (s : State) : (releaseRing c s).lanes = s.lanes := rfl
@[simp] theorem releaseRing_pulses (c : CtxId) (s : State) : (releaseRing c s).pulses = s.pulses := rfl
@[simp] theorem releaseRing_cp (c : CtxId) (s : State) : (releaseRing c s).cp = s.cp := rfl
@[simp] theorem releaseRing_comp (c : CtxId) (s : State) : (releaseRing c s).comp = s.comp := rfl
@[simp] theorem releaseRing_holding (c : CtxId) (s : State) : (releaseRing c s).holding = s.holding := rfl
@[simp] theorem releaseRing_intMod (c : CtxId) (s : State) : (releaseRing c s).intMod = s.intMod := rfl
@[simp] theorem releaseRing_condition (c : CtxId) (s : State) : (releaseRing c s).condition = s.condition := rfl
@[simp] theorem releaseRing_link (c : CtxId) (s : State) : (releaseRing c s).link = s.link := rfl
@[simp] theorem releaseRing_pending (c : CtxId) (s : State) : (releaseRing c s).pending = s.pending := rfl

@[simp] theorem releaseFiring_clock (c : CtxId) (s : State) : (releaseFiring c s).clock = s.clock := rfl
@[simp] theorem releaseFiring_inReset (c : CtxId) (s : State) : (releaseFiring c s).inReset = s.inReset := rfl
@[simp] theorem releaseFiring_run (c : CtxId) (s : State) : (releaseFiring c s).run = s.run := rfl
@[simp] theorem releaseFiring_resetting (c : CtxId) (s : State) : (releaseFiring c s).resetting = s.resetting := rfl
@[simp] theorem releaseFiring_fetchLimit (c : CtxId) (s : State) : (releaseFiring c s).fetchLimit = s.fetchLimit := rfl
@[simp] theorem releaseFiring_dividerHeld (c : CtxId) (s : State) : (releaseFiring c s).dividerHeld = s.dividerHeld := rfl
@[simp] theorem releaseFiring_divider (c : CtxId) (s : State) : (releaseFiring c s).divider = s.divider := rfl
@[simp] theorem releaseFiring_fault (c : CtxId) (s : State) : (releaseFiring c s).fault = s.fault := rfl
@[simp] theorem releaseFiring_jobs (c : CtxId) (s : State) : (releaseFiring c s).jobs = s.jobs := rfl
@[simp] theorem releaseFiring_lists (c : CtxId) (s : State) : (releaseFiring c s).lists = s.lists := rfl
@[simp] theorem releaseFiring_endQueue (c : CtxId) (s : State) : (releaseFiring c s).endQueue = s.endQueue := rfl
@[simp] theorem releaseFiring_slotWait (c : CtxId) (s : State) : (releaseFiring c s).slotWait = s.slotWait := rfl
@[simp] theorem releaseFiring_tracker (c : CtxId) (s : State) : (releaseFiring c s).tracker = s.tracker := rfl
@[simp] theorem releaseFiring_lastServed (c : CtxId) (s : State) : (releaseFiring c s).lastServed = s.lastServed := rfl
@[simp] theorem releaseFiring_lateReads (c : CtxId) (s : State) : (releaseFiring c s).lateReads = s.lateReads := rfl
@[simp] theorem releaseFiring_configs (c : CtxId) (s : State) : (releaseFiring c s).configs = s.configs := rfl
@[simp] theorem releaseFiring_groups (c : CtxId) (s : State) : (releaseFiring c s).groups = s.groups := rfl
@[simp] theorem releaseFiring_eligible (c : CtxId) (s : State) : (releaseFiring c s).eligible = s.eligible := rfl
@[simp] theorem releaseFiring_profiles (c : CtxId) (s : State) : (releaseFiring c s).profiles = s.profiles := rfl
@[simp] theorem releaseFiring_lanes (c : CtxId) (s : State) : (releaseFiring c s).lanes = s.lanes := rfl
@[simp] theorem releaseFiring_pulses (c : CtxId) (s : State) : (releaseFiring c s).pulses = s.pulses := rfl
@[simp] theorem releaseFiring_cp (c : CtxId) (s : State) : (releaseFiring c s).cp = s.cp := rfl
@[simp] theorem releaseFiring_comp (c : CtxId) (s : State) : (releaseFiring c s).comp = s.comp := rfl
@[simp] theorem releaseFiring_holding (c : CtxId) (s : State) : (releaseFiring c s).holding = s.holding := rfl
@[simp] theorem releaseFiring_intMod (c : CtxId) (s : State) : (releaseFiring c s).intMod = s.intMod := rfl
@[simp] theorem releaseFiring_condition (c : CtxId) (s : State) : (releaseFiring c s).condition = s.condition := rfl
@[simp] theorem releaseFiring_link (c : CtxId) (s : State) : (releaseFiring c s).link = s.link := rfl
@[simp] theorem releaseFiring_pending (c : CtxId) (s : State) : (releaseFiring c s).pending = s.pending := rfl

@[simp] theorem noteEligible_clock (s : State) : (noteEligible s).clock = s.clock := rfl
@[simp] theorem noteEligible_inReset (s : State) : (noteEligible s).inReset = s.inReset := rfl
@[simp] theorem noteEligible_run (s : State) : (noteEligible s).run = s.run := rfl
@[simp] theorem noteEligible_resetting (s : State) : (noteEligible s).resetting = s.resetting := rfl
@[simp] theorem noteEligible_fetchLimit (s : State) : (noteEligible s).fetchLimit = s.fetchLimit := rfl
@[simp] theorem noteEligible_dividerHeld (s : State) : (noteEligible s).dividerHeld = s.dividerHeld := rfl
@[simp] theorem noteEligible_divider (s : State) : (noteEligible s).divider = s.divider := rfl
@[simp] theorem noteEligible_fault (s : State) : (noteEligible s).fault = s.fault := rfl
@[simp] theorem noteEligible_jobs (s : State) : (noteEligible s).jobs = s.jobs := rfl
@[simp] theorem noteEligible_lists (s : State) : (noteEligible s).lists = s.lists := rfl
@[simp] theorem noteEligible_endQueue (s : State) : (noteEligible s).endQueue = s.endQueue := rfl
@[simp] theorem noteEligible_slots (s : State) : (noteEligible s).slots = s.slots := rfl
@[simp] theorem noteEligible_slotWait (s : State) : (noteEligible s).slotWait = s.slotWait := rfl
@[simp] theorem noteEligible_tracker (s : State) : (noteEligible s).tracker = s.tracker := rfl
@[simp] theorem noteEligible_lastServed (s : State) : (noteEligible s).lastServed = s.lastServed := rfl
@[simp] theorem noteEligible_lateReads (s : State) : (noteEligible s).lateReads = s.lateReads := rfl
@[simp] theorem noteEligible_configs (s : State) : (noteEligible s).configs = s.configs := rfl
@[simp] theorem noteEligible_groups (s : State) : (noteEligible s).groups = s.groups := rfl
@[simp] theorem noteEligible_profiles (s : State) : (noteEligible s).profiles = s.profiles := rfl
@[simp] theorem noteEligible_lanes (s : State) : (noteEligible s).lanes = s.lanes := rfl
@[simp] theorem noteEligible_pulses (s : State) : (noteEligible s).pulses = s.pulses := rfl
@[simp] theorem noteEligible_cp (s : State) : (noteEligible s).cp = s.cp := rfl
@[simp] theorem noteEligible_comp (s : State) : (noteEligible s).comp = s.comp := rfl
@[simp] theorem noteEligible_holding (s : State) : (noteEligible s).holding = s.holding := rfl
@[simp] theorem noteEligible_intMod (s : State) : (noteEligible s).intMod = s.intMod := rfl
@[simp] theorem noteEligible_condition (s : State) : (noteEligible s).condition = s.condition := rfl
@[simp] theorem noteEligible_link (s : State) : (noteEligible s).link = s.link := rfl
@[simp] theorem noteEligible_pending (s : State) : (noteEligible s).pending = s.pending := rfl

@[simp] theorem setWait_clock (l : List CtxId) (s : State) : (setWait l s).clock = s.clock := rfl
@[simp] theorem setWait_inReset (l : List CtxId) (s : State) : (setWait l s).inReset = s.inReset := rfl
@[simp] theorem setWait_run (l : List CtxId) (s : State) : (setWait l s).run = s.run := rfl
@[simp] theorem setWait_resetting (l : List CtxId) (s : State) : (setWait l s).resetting = s.resetting := rfl
@[simp] theorem setWait_fetchLimit (l : List CtxId) (s : State) : (setWait l s).fetchLimit = s.fetchLimit := rfl
@[simp] theorem setWait_dividerHeld (l : List CtxId) (s : State) : (setWait l s).dividerHeld = s.dividerHeld := rfl
@[simp] theorem setWait_divider (l : List CtxId) (s : State) : (setWait l s).divider = s.divider := rfl
@[simp] theorem setWait_fault (l : List CtxId) (s : State) : (setWait l s).fault = s.fault := rfl
@[simp] theorem setWait_jobs (l : List CtxId) (s : State) : (setWait l s).jobs = s.jobs := rfl
@[simp] theorem setWait_lists (l : List CtxId) (s : State) : (setWait l s).lists = s.lists := rfl
@[simp] theorem setWait_endQueue (l : List CtxId) (s : State) : (setWait l s).endQueue = s.endQueue := rfl
@[simp] theorem setWait_slots (l : List CtxId) (s : State) : (setWait l s).slots = s.slots := rfl
@[simp] theorem setWait_tracker (l : List CtxId) (s : State) : (setWait l s).tracker = s.tracker := rfl
@[simp] theorem setWait_lastServed (l : List CtxId) (s : State) : (setWait l s).lastServed = s.lastServed := rfl
@[simp] theorem setWait_lateReads (l : List CtxId) (s : State) : (setWait l s).lateReads = s.lateReads := rfl
@[simp] theorem setWait_configs (l : List CtxId) (s : State) : (setWait l s).configs = s.configs := rfl
@[simp] theorem setWait_groups (l : List CtxId) (s : State) : (setWait l s).groups = s.groups := rfl
@[simp] theorem setWait_eligible (l : List CtxId) (s : State) : (setWait l s).eligible = s.eligible := rfl
@[simp] theorem setWait_profiles (l : List CtxId) (s : State) : (setWait l s).profiles = s.profiles := rfl
@[simp] theorem setWait_lanes (l : List CtxId) (s : State) : (setWait l s).lanes = s.lanes := rfl
@[simp] theorem setWait_pulses (l : List CtxId) (s : State) : (setWait l s).pulses = s.pulses := rfl
@[simp] theorem setWait_cp (l : List CtxId) (s : State) : (setWait l s).cp = s.cp := rfl
@[simp] theorem setWait_comp (l : List CtxId) (s : State) : (setWait l s).comp = s.comp := rfl
@[simp] theorem setWait_holding (l : List CtxId) (s : State) : (setWait l s).holding = s.holding := rfl
@[simp] theorem setWait_intMod (l : List CtxId) (s : State) : (setWait l s).intMod = s.intMod := rfl
@[simp] theorem setWait_condition (l : List CtxId) (s : State) : (setWait l s).condition = s.condition := rfl
@[simp] theorem setWait_link (l : List CtxId) (s : State) : (setWait l s).link = s.link := rfl
@[simp] theorem setWait_pending (l : List CtxId) (s : State) : (setWait l s).pending = s.pending := rfl

@[simp] theorem setEndQueue_clock (l : List CtxId) (s : State) : (setEndQueue l s).clock = s.clock := rfl
@[simp] theorem setEndQueue_inReset (l : List CtxId) (s : State) : (setEndQueue l s).inReset = s.inReset := rfl
@[simp] theorem setEndQueue_run (l : List CtxId) (s : State) : (setEndQueue l s).run = s.run := rfl
@[simp] theorem setEndQueue_resetting (l : List CtxId) (s : State) : (setEndQueue l s).resetting = s.resetting := rfl
@[simp] theorem setEndQueue_fetchLimit (l : List CtxId) (s : State) : (setEndQueue l s).fetchLimit = s.fetchLimit := rfl
@[simp] theorem setEndQueue_dividerHeld (l : List CtxId) (s : State) : (setEndQueue l s).dividerHeld = s.dividerHeld := rfl
@[simp] theorem setEndQueue_divider (l : List CtxId) (s : State) : (setEndQueue l s).divider = s.divider := rfl
@[simp] theorem setEndQueue_fault (l : List CtxId) (s : State) : (setEndQueue l s).fault = s.fault := rfl
@[simp] theorem setEndQueue_jobs (l : List CtxId) (s : State) : (setEndQueue l s).jobs = s.jobs := rfl
@[simp] theorem setEndQueue_lists (l : List CtxId) (s : State) : (setEndQueue l s).lists = s.lists := rfl
@[simp] theorem setEndQueue_slots (l : List CtxId) (s : State) : (setEndQueue l s).slots = s.slots := rfl
@[simp] theorem setEndQueue_slotWait (l : List CtxId) (s : State) : (setEndQueue l s).slotWait = s.slotWait := rfl
@[simp] theorem setEndQueue_tracker (l : List CtxId) (s : State) : (setEndQueue l s).tracker = s.tracker := rfl
@[simp] theorem setEndQueue_lastServed (l : List CtxId) (s : State) : (setEndQueue l s).lastServed = s.lastServed := rfl
@[simp] theorem setEndQueue_lateReads (l : List CtxId) (s : State) : (setEndQueue l s).lateReads = s.lateReads := rfl
@[simp] theorem setEndQueue_configs (l : List CtxId) (s : State) : (setEndQueue l s).configs = s.configs := rfl
@[simp] theorem setEndQueue_groups (l : List CtxId) (s : State) : (setEndQueue l s).groups = s.groups := rfl
@[simp] theorem setEndQueue_eligible (l : List CtxId) (s : State) : (setEndQueue l s).eligible = s.eligible := rfl
@[simp] theorem setEndQueue_profiles (l : List CtxId) (s : State) : (setEndQueue l s).profiles = s.profiles := rfl
@[simp] theorem setEndQueue_lanes (l : List CtxId) (s : State) : (setEndQueue l s).lanes = s.lanes := rfl
@[simp] theorem setEndQueue_pulses (l : List CtxId) (s : State) : (setEndQueue l s).pulses = s.pulses := rfl
@[simp] theorem setEndQueue_cp (l : List CtxId) (s : State) : (setEndQueue l s).cp = s.cp := rfl
@[simp] theorem setEndQueue_comp (l : List CtxId) (s : State) : (setEndQueue l s).comp = s.comp := rfl
@[simp] theorem setEndQueue_holding (l : List CtxId) (s : State) : (setEndQueue l s).holding = s.holding := rfl
@[simp] theorem setEndQueue_intMod (l : List CtxId) (s : State) : (setEndQueue l s).intMod = s.intMod := rfl
@[simp] theorem setEndQueue_condition (l : List CtxId) (s : State) : (setEndQueue l s).condition = s.condition := rfl
@[simp] theorem setEndQueue_link (l : List CtxId) (s : State) : (setEndQueue l s).link = s.link := rfl
@[simp] theorem setEndQueue_pending (l : List CtxId) (s : State) : (setEndQueue l s).pending = s.pending := rfl

@[simp] theorem setEligible_clock (l : List GroupId) (s : State) : (setEligible l s).clock = s.clock := rfl
@[simp] theorem setEligible_inReset (l : List GroupId) (s : State) : (setEligible l s).inReset = s.inReset := rfl
@[simp] theorem setEligible_run (l : List GroupId) (s : State) : (setEligible l s).run = s.run := rfl
@[simp] theorem setEligible_resetting (l : List GroupId) (s : State) : (setEligible l s).resetting = s.resetting := rfl
@[simp] theorem setEligible_fetchLimit (l : List GroupId) (s : State) : (setEligible l s).fetchLimit = s.fetchLimit := rfl
@[simp] theorem setEligible_dividerHeld (l : List GroupId) (s : State) : (setEligible l s).dividerHeld = s.dividerHeld := rfl
@[simp] theorem setEligible_divider (l : List GroupId) (s : State) : (setEligible l s).divider = s.divider := rfl
@[simp] theorem setEligible_fault (l : List GroupId) (s : State) : (setEligible l s).fault = s.fault := rfl
@[simp] theorem setEligible_jobs (l : List GroupId) (s : State) : (setEligible l s).jobs = s.jobs := rfl
@[simp] theorem setEligible_lists (l : List GroupId) (s : State) : (setEligible l s).lists = s.lists := rfl
@[simp] theorem setEligible_endQueue (l : List GroupId) (s : State) : (setEligible l s).endQueue = s.endQueue := rfl
@[simp] theorem setEligible_slots (l : List GroupId) (s : State) : (setEligible l s).slots = s.slots := rfl
@[simp] theorem setEligible_slotWait (l : List GroupId) (s : State) : (setEligible l s).slotWait = s.slotWait := rfl
@[simp] theorem setEligible_tracker (l : List GroupId) (s : State) : (setEligible l s).tracker = s.tracker := rfl
@[simp] theorem setEligible_lastServed (l : List GroupId) (s : State) : (setEligible l s).lastServed = s.lastServed := rfl
@[simp] theorem setEligible_lateReads (l : List GroupId) (s : State) : (setEligible l s).lateReads = s.lateReads := rfl
@[simp] theorem setEligible_configs (l : List GroupId) (s : State) : (setEligible l s).configs = s.configs := rfl
@[simp] theorem setEligible_groups (l : List GroupId) (s : State) : (setEligible l s).groups = s.groups := rfl
@[simp] theorem setEligible_profiles (l : List GroupId) (s : State) : (setEligible l s).profiles = s.profiles := rfl
@[simp] theorem setEligible_lanes (l : List GroupId) (s : State) : (setEligible l s).lanes = s.lanes := rfl
@[simp] theorem setEligible_pulses (l : List GroupId) (s : State) : (setEligible l s).pulses = s.pulses := rfl
@[simp] theorem setEligible_cp (l : List GroupId) (s : State) : (setEligible l s).cp = s.cp := rfl
@[simp] theorem setEligible_comp (l : List GroupId) (s : State) : (setEligible l s).comp = s.comp := rfl
@[simp] theorem setEligible_holding (l : List GroupId) (s : State) : (setEligible l s).holding = s.holding := rfl
@[simp] theorem setEligible_intMod (l : List GroupId) (s : State) : (setEligible l s).intMod = s.intMod := rfl
@[simp] theorem setEligible_condition (l : List GroupId) (s : State) : (setEligible l s).condition = s.condition := rfl
@[simp] theorem setEligible_link (l : List GroupId) (s : State) : (setEligible l s).link = s.link := rfl
@[simp] theorem setEligible_pending (l : List GroupId) (s : State) : (setEligible l s).pending = s.pending := rfl

@[simp] theorem readyWaiters_clock (c : CtxId) (s : State) : (readyWaiters c s).clock = s.clock := rfl
@[simp] theorem readyWaiters_inReset (c : CtxId) (s : State) : (readyWaiters c s).inReset = s.inReset := rfl
@[simp] theorem readyWaiters_run (c : CtxId) (s : State) : (readyWaiters c s).run = s.run := rfl
@[simp] theorem readyWaiters_resetting (c : CtxId) (s : State) : (readyWaiters c s).resetting = s.resetting := rfl
@[simp] theorem readyWaiters_fetchLimit (c : CtxId) (s : State) : (readyWaiters c s).fetchLimit = s.fetchLimit := rfl
@[simp] theorem readyWaiters_dividerHeld (c : CtxId) (s : State) : (readyWaiters c s).dividerHeld = s.dividerHeld := rfl
@[simp] theorem readyWaiters_divider (c : CtxId) (s : State) : (readyWaiters c s).divider = s.divider := rfl
@[simp] theorem readyWaiters_fault (c : CtxId) (s : State) : (readyWaiters c s).fault = s.fault := rfl
@[simp] theorem readyWaiters_jobs (c : CtxId) (s : State) : (readyWaiters c s).jobs = s.jobs := rfl
@[simp] theorem readyWaiters_lists (c : CtxId) (s : State) : (readyWaiters c s).lists = s.lists := rfl
@[simp] theorem readyWaiters_endQueue (c : CtxId) (s : State) : (readyWaiters c s).endQueue = s.endQueue := rfl
@[simp] theorem readyWaiters_slots (c : CtxId) (s : State) : (readyWaiters c s).slots = s.slots := rfl
@[simp] theorem readyWaiters_slotWait (c : CtxId) (s : State) : (readyWaiters c s).slotWait = s.slotWait := rfl
@[simp] theorem readyWaiters_tracker (c : CtxId) (s : State) : (readyWaiters c s).tracker = s.tracker := rfl
@[simp] theorem readyWaiters_lastServed (c : CtxId) (s : State) : (readyWaiters c s).lastServed = s.lastServed := rfl
@[simp] theorem readyWaiters_lateReads (c : CtxId) (s : State) : (readyWaiters c s).lateReads = s.lateReads := rfl
@[simp] theorem readyWaiters_configs (c : CtxId) (s : State) : (readyWaiters c s).configs = s.configs := rfl
@[simp] theorem readyWaiters_eligible (c : CtxId) (s : State) : (readyWaiters c s).eligible = s.eligible := rfl
@[simp] theorem readyWaiters_profiles (c : CtxId) (s : State) : (readyWaiters c s).profiles = s.profiles := rfl
@[simp] theorem readyWaiters_lanes (c : CtxId) (s : State) : (readyWaiters c s).lanes = s.lanes := rfl
@[simp] theorem readyWaiters_pulses (c : CtxId) (s : State) : (readyWaiters c s).pulses = s.pulses := rfl
@[simp] theorem readyWaiters_cp (c : CtxId) (s : State) : (readyWaiters c s).cp = s.cp := rfl
@[simp] theorem readyWaiters_comp (c : CtxId) (s : State) : (readyWaiters c s).comp = s.comp := rfl
@[simp] theorem readyWaiters_holding (c : CtxId) (s : State) : (readyWaiters c s).holding = s.holding := rfl
@[simp] theorem readyWaiters_intMod (c : CtxId) (s : State) : (readyWaiters c s).intMod = s.intMod := rfl
@[simp] theorem readyWaiters_condition (c : CtxId) (s : State) : (readyWaiters c s).condition = s.condition := rfl
@[simp] theorem readyWaiters_link (c : CtxId) (s : State) : (readyWaiters c s).link = s.link := rfl
@[simp] theorem readyWaiters_pending (c : CtxId) (s : State) : (readyWaiters c s).pending = s.pending := rfl

@[simp] theorem dropFromList_clock (c : CtxId) (g : GroupId) (s : State) : (dropFromList c g s).clock = s.clock := rfl
@[simp] theorem dropFromList_inReset (c : CtxId) (g : GroupId) (s : State) : (dropFromList c g s).inReset = s.inReset := rfl
@[simp] theorem dropFromList_run (c : CtxId) (g : GroupId) (s : State) : (dropFromList c g s).run = s.run := rfl
@[simp] theorem dropFromList_resetting (c : CtxId) (g : GroupId) (s : State) : (dropFromList c g s).resetting = s.resetting := rfl
@[simp] theorem dropFromList_fetchLimit (c : CtxId) (g : GroupId) (s : State) : (dropFromList c g s).fetchLimit = s.fetchLimit := rfl
@[simp] theorem dropFromList_dividerHeld (c : CtxId) (g : GroupId) (s : State) : (dropFromList c g s).dividerHeld = s.dividerHeld := rfl
@[simp] theorem dropFromList_divider (c : CtxId) (g : GroupId) (s : State) : (dropFromList c g s).divider = s.divider := rfl
@[simp] theorem dropFromList_fault (c : CtxId) (g : GroupId) (s : State) : (dropFromList c g s).fault = s.fault := rfl
@[simp] theorem dropFromList_jobs (c : CtxId) (g : GroupId) (s : State) : (dropFromList c g s).jobs = s.jobs := rfl
@[simp] theorem dropFromList_endQueue (c : CtxId) (g : GroupId) (s : State) : (dropFromList c g s).endQueue = s.endQueue := rfl
@[simp] theorem dropFromList_slots (c : CtxId) (g : GroupId) (s : State) : (dropFromList c g s).slots = s.slots := rfl
@[simp] theorem dropFromList_slotWait (c : CtxId) (g : GroupId) (s : State) : (dropFromList c g s).slotWait = s.slotWait := rfl
@[simp] theorem dropFromList_tracker (c : CtxId) (g : GroupId) (s : State) : (dropFromList c g s).tracker = s.tracker := rfl
@[simp] theorem dropFromList_lastServed (c : CtxId) (g : GroupId) (s : State) : (dropFromList c g s).lastServed = s.lastServed := rfl
@[simp] theorem dropFromList_lateReads (c : CtxId) (g : GroupId) (s : State) : (dropFromList c g s).lateReads = s.lateReads := rfl
@[simp] theorem dropFromList_configs (c : CtxId) (g : GroupId) (s : State) : (dropFromList c g s).configs = s.configs := rfl
@[simp] theorem dropFromList_groups (c : CtxId) (g : GroupId) (s : State) : (dropFromList c g s).groups = s.groups := rfl
@[simp] theorem dropFromList_eligible (c : CtxId) (g : GroupId) (s : State) : (dropFromList c g s).eligible = s.eligible := rfl
@[simp] theorem dropFromList_profiles (c : CtxId) (g : GroupId) (s : State) : (dropFromList c g s).profiles = s.profiles := rfl
@[simp] theorem dropFromList_lanes (c : CtxId) (g : GroupId) (s : State) : (dropFromList c g s).lanes = s.lanes := rfl
@[simp] theorem dropFromList_pulses (c : CtxId) (g : GroupId) (s : State) : (dropFromList c g s).pulses = s.pulses := rfl
@[simp] theorem dropFromList_cp (c : CtxId) (g : GroupId) (s : State) : (dropFromList c g s).cp = s.cp := rfl
@[simp] theorem dropFromList_comp (c : CtxId) (g : GroupId) (s : State) : (dropFromList c g s).comp = s.comp := rfl
@[simp] theorem dropFromList_holding (c : CtxId) (g : GroupId) (s : State) : (dropFromList c g s).holding = s.holding := rfl
@[simp] theorem dropFromList_intMod (c : CtxId) (g : GroupId) (s : State) : (dropFromList c g s).intMod = s.intMod := rfl
@[simp] theorem dropFromList_condition (c : CtxId) (g : GroupId) (s : State) : (dropFromList c g s).condition = s.condition := rfl
@[simp] theorem dropFromList_link (c : CtxId) (g : GroupId) (s : State) : (dropFromList c g s).link = s.link := rfl
@[simp] theorem dropFromList_pending (c : CtxId) (g : GroupId) (s : State) : (dropFromList c g s).pending = s.pending := rfl

@[simp] theorem queueEnd_clock (c : CtxId) (s : State) : (queueEnd c s).clock = s.clock := rfl
@[simp] theorem queueEnd_inReset (c : CtxId) (s : State) : (queueEnd c s).inReset = s.inReset := rfl
@[simp] theorem queueEnd_run (c : CtxId) (s : State) : (queueEnd c s).run = s.run := rfl
@[simp] theorem queueEnd_resetting (c : CtxId) (s : State) : (queueEnd c s).resetting = s.resetting := rfl
@[simp] theorem queueEnd_fetchLimit (c : CtxId) (s : State) : (queueEnd c s).fetchLimit = s.fetchLimit := rfl
@[simp] theorem queueEnd_dividerHeld (c : CtxId) (s : State) : (queueEnd c s).dividerHeld = s.dividerHeld := rfl
@[simp] theorem queueEnd_divider (c : CtxId) (s : State) : (queueEnd c s).divider = s.divider := rfl
@[simp] theorem queueEnd_fault (c : CtxId) (s : State) : (queueEnd c s).fault = s.fault := rfl
@[simp] theorem queueEnd_jobs (c : CtxId) (s : State) : (queueEnd c s).jobs = s.jobs := rfl
@[simp] theorem queueEnd_lists (c : CtxId) (s : State) : (queueEnd c s).lists = s.lists := rfl
@[simp] theorem queueEnd_slots (c : CtxId) (s : State) : (queueEnd c s).slots = s.slots := rfl
@[simp] theorem queueEnd_slotWait (c : CtxId) (s : State) : (queueEnd c s).slotWait = s.slotWait := rfl
@[simp] theorem queueEnd_tracker (c : CtxId) (s : State) : (queueEnd c s).tracker = s.tracker := rfl
@[simp] theorem queueEnd_lastServed (c : CtxId) (s : State) : (queueEnd c s).lastServed = s.lastServed := rfl
@[simp] theorem queueEnd_lateReads (c : CtxId) (s : State) : (queueEnd c s).lateReads = s.lateReads := rfl
@[simp] theorem queueEnd_configs (c : CtxId) (s : State) : (queueEnd c s).configs = s.configs := rfl
@[simp] theorem queueEnd_groups (c : CtxId) (s : State) : (queueEnd c s).groups = s.groups := rfl
@[simp] theorem queueEnd_eligible (c : CtxId) (s : State) : (queueEnd c s).eligible = s.eligible := rfl
@[simp] theorem queueEnd_profiles (c : CtxId) (s : State) : (queueEnd c s).profiles = s.profiles := rfl
@[simp] theorem queueEnd_lanes (c : CtxId) (s : State) : (queueEnd c s).lanes = s.lanes := rfl
@[simp] theorem queueEnd_pulses (c : CtxId) (s : State) : (queueEnd c s).pulses = s.pulses := rfl
@[simp] theorem queueEnd_cp (c : CtxId) (s : State) : (queueEnd c s).cp = s.cp := rfl
@[simp] theorem queueEnd_comp (c : CtxId) (s : State) : (queueEnd c s).comp = s.comp := rfl
@[simp] theorem queueEnd_holding (c : CtxId) (s : State) : (queueEnd c s).holding = s.holding := rfl
@[simp] theorem queueEnd_intMod (c : CtxId) (s : State) : (queueEnd c s).intMod = s.intMod := rfl
@[simp] theorem queueEnd_condition (c : CtxId) (s : State) : (queueEnd c s).condition = s.condition := rfl
@[simp] theorem queueEnd_link (c : CtxId) (s : State) : (queueEnd c s).link = s.link := rfl
@[simp] theorem queueEnd_pending (c : CtxId) (s : State) : (queueEnd c s).pending = s.pending := rfl

@[simp] theorem fillContext_clock (c : CtxId) (j : Job) (s : State) : (fillContext c j s).clock = s.clock := rfl
@[simp] theorem fillContext_inReset (c : CtxId) (j : Job) (s : State) : (fillContext c j s).inReset = s.inReset := rfl
@[simp] theorem fillContext_run (c : CtxId) (j : Job) (s : State) : (fillContext c j s).run = s.run := rfl
@[simp] theorem fillContext_resetting (c : CtxId) (j : Job) (s : State) : (fillContext c j s).resetting = s.resetting := rfl
@[simp] theorem fillContext_fetchLimit (c : CtxId) (j : Job) (s : State) : (fillContext c j s).fetchLimit = s.fetchLimit := rfl
@[simp] theorem fillContext_dividerHeld (c : CtxId) (j : Job) (s : State) : (fillContext c j s).dividerHeld = s.dividerHeld := rfl
@[simp] theorem fillContext_divider (c : CtxId) (j : Job) (s : State) : (fillContext c j s).divider = s.divider := rfl
@[simp] theorem fillContext_fault (c : CtxId) (j : Job) (s : State) : (fillContext c j s).fault = s.fault := rfl
@[simp] theorem fillContext_lists (c : CtxId) (j : Job) (s : State) : (fillContext c j s).lists = s.lists := rfl
@[simp] theorem fillContext_endQueue (c : CtxId) (j : Job) (s : State) : (fillContext c j s).endQueue = s.endQueue := rfl
@[simp] theorem fillContext_slots (c : CtxId) (j : Job) (s : State) : (fillContext c j s).slots = s.slots := rfl
@[simp] theorem fillContext_slotWait (c : CtxId) (j : Job) (s : State) : (fillContext c j s).slotWait = s.slotWait := rfl
@[simp] theorem fillContext_tracker (c : CtxId) (j : Job) (s : State) : (fillContext c j s).tracker = s.tracker := rfl
@[simp] theorem fillContext_lastServed (c : CtxId) (j : Job) (s : State) : (fillContext c j s).lastServed = s.lastServed := rfl
@[simp] theorem fillContext_lateReads (c : CtxId) (j : Job) (s : State) : (fillContext c j s).lateReads = s.lateReads := rfl
@[simp] theorem fillContext_configs (c : CtxId) (j : Job) (s : State) : (fillContext c j s).configs = s.configs := rfl
@[simp] theorem fillContext_groups (c : CtxId) (j : Job) (s : State) : (fillContext c j s).groups = s.groups := rfl
@[simp] theorem fillContext_eligible (c : CtxId) (j : Job) (s : State) : (fillContext c j s).eligible = s.eligible := rfl
@[simp] theorem fillContext_profiles (c : CtxId) (j : Job) (s : State) : (fillContext c j s).profiles = s.profiles := rfl
@[simp] theorem fillContext_lanes (c : CtxId) (j : Job) (s : State) : (fillContext c j s).lanes = s.lanes := rfl
@[simp] theorem fillContext_pulses (c : CtxId) (j : Job) (s : State) : (fillContext c j s).pulses = s.pulses := rfl
@[simp] theorem fillContext_cp (c : CtxId) (j : Job) (s : State) : (fillContext c j s).cp = s.cp := rfl
@[simp] theorem fillContext_comp (c : CtxId) (j : Job) (s : State) : (fillContext c j s).comp = s.comp := rfl
@[simp] theorem fillContext_holding (c : CtxId) (j : Job) (s : State) : (fillContext c j s).holding = s.holding := rfl
@[simp] theorem fillContext_intMod (c : CtxId) (j : Job) (s : State) : (fillContext c j s).intMod = s.intMod := rfl
@[simp] theorem fillContext_condition (c : CtxId) (j : Job) (s : State) : (fillContext c j s).condition = s.condition := rfl
@[simp] theorem fillContext_link (c : CtxId) (j : Job) (s : State) : (fillContext c j s).link = s.link := rfl
@[simp] theorem fillContext_pending (c : CtxId) (j : Job) (s : State) : (fillContext c j s).pending = s.pending := rfl

@[simp] theorem joinList_clock (c : CtxId) (g : GroupId) (s : State) : (joinList c g s).clock = s.clock := rfl
@[simp] theorem joinList_inReset (c : CtxId) (g : GroupId) (s : State) : (joinList c g s).inReset = s.inReset := rfl
@[simp] theorem joinList_run (c : CtxId) (g : GroupId) (s : State) : (joinList c g s).run = s.run := rfl
@[simp] theorem joinList_resetting (c : CtxId) (g : GroupId) (s : State) : (joinList c g s).resetting = s.resetting := rfl
@[simp] theorem joinList_fetchLimit (c : CtxId) (g : GroupId) (s : State) : (joinList c g s).fetchLimit = s.fetchLimit := rfl
@[simp] theorem joinList_dividerHeld (c : CtxId) (g : GroupId) (s : State) : (joinList c g s).dividerHeld = s.dividerHeld := rfl
@[simp] theorem joinList_divider (c : CtxId) (g : GroupId) (s : State) : (joinList c g s).divider = s.divider := rfl
@[simp] theorem joinList_fault (c : CtxId) (g : GroupId) (s : State) : (joinList c g s).fault = s.fault := rfl
@[simp] theorem joinList_jobs (c : CtxId) (g : GroupId) (s : State) : (joinList c g s).jobs = s.jobs := rfl
@[simp] theorem joinList_endQueue (c : CtxId) (g : GroupId) (s : State) : (joinList c g s).endQueue = s.endQueue := rfl
@[simp] theorem joinList_slots (c : CtxId) (g : GroupId) (s : State) : (joinList c g s).slots = s.slots := rfl
@[simp] theorem joinList_slotWait (c : CtxId) (g : GroupId) (s : State) : (joinList c g s).slotWait = s.slotWait := rfl
@[simp] theorem joinList_tracker (c : CtxId) (g : GroupId) (s : State) : (joinList c g s).tracker = s.tracker := rfl
@[simp] theorem joinList_lastServed (c : CtxId) (g : GroupId) (s : State) : (joinList c g s).lastServed = s.lastServed := rfl
@[simp] theorem joinList_lateReads (c : CtxId) (g : GroupId) (s : State) : (joinList c g s).lateReads = s.lateReads := rfl
@[simp] theorem joinList_configs (c : CtxId) (g : GroupId) (s : State) : (joinList c g s).configs = s.configs := rfl
@[simp] theorem joinList_groups (c : CtxId) (g : GroupId) (s : State) : (joinList c g s).groups = s.groups := rfl
@[simp] theorem joinList_eligible (c : CtxId) (g : GroupId) (s : State) : (joinList c g s).eligible = s.eligible := rfl
@[simp] theorem joinList_profiles (c : CtxId) (g : GroupId) (s : State) : (joinList c g s).profiles = s.profiles := rfl
@[simp] theorem joinList_lanes (c : CtxId) (g : GroupId) (s : State) : (joinList c g s).lanes = s.lanes := rfl
@[simp] theorem joinList_pulses (c : CtxId) (g : GroupId) (s : State) : (joinList c g s).pulses = s.pulses := rfl
@[simp] theorem joinList_cp (c : CtxId) (g : GroupId) (s : State) : (joinList c g s).cp = s.cp := rfl
@[simp] theorem joinList_comp (c : CtxId) (g : GroupId) (s : State) : (joinList c g s).comp = s.comp := rfl
@[simp] theorem joinList_holding (c : CtxId) (g : GroupId) (s : State) : (joinList c g s).holding = s.holding := rfl
@[simp] theorem joinList_intMod (c : CtxId) (g : GroupId) (s : State) : (joinList c g s).intMod = s.intMod := rfl
@[simp] theorem joinList_condition (c : CtxId) (g : GroupId) (s : State) : (joinList c g s).condition = s.condition := rfl
@[simp] theorem joinList_link (c : CtxId) (g : GroupId) (s : State) : (joinList c g s).link = s.link := rfl
@[simp] theorem joinList_pending (c : CtxId) (g : GroupId) (s : State) : (joinList c g s).pending = s.pending := rfl

@[simp] theorem setEntry_clock (e : EntryId) (r : Option LineRead) (s : State) : (setEntry e r s).clock = s.clock := rfl
@[simp] theorem setEntry_inReset (e : EntryId) (r : Option LineRead) (s : State) : (setEntry e r s).inReset = s.inReset := rfl
@[simp] theorem setEntry_run (e : EntryId) (r : Option LineRead) (s : State) : (setEntry e r s).run = s.run := rfl
@[simp] theorem setEntry_resetting (e : EntryId) (r : Option LineRead) (s : State) : (setEntry e r s).resetting = s.resetting := rfl
@[simp] theorem setEntry_fetchLimit (e : EntryId) (r : Option LineRead) (s : State) : (setEntry e r s).fetchLimit = s.fetchLimit := rfl
@[simp] theorem setEntry_dividerHeld (e : EntryId) (r : Option LineRead) (s : State) : (setEntry e r s).dividerHeld = s.dividerHeld := rfl
@[simp] theorem setEntry_divider (e : EntryId) (r : Option LineRead) (s : State) : (setEntry e r s).divider = s.divider := rfl
@[simp] theorem setEntry_fault (e : EntryId) (r : Option LineRead) (s : State) : (setEntry e r s).fault = s.fault := rfl
@[simp] theorem setEntry_jobs (e : EntryId) (r : Option LineRead) (s : State) : (setEntry e r s).jobs = s.jobs := rfl
@[simp] theorem setEntry_lists (e : EntryId) (r : Option LineRead) (s : State) : (setEntry e r s).lists = s.lists := rfl
@[simp] theorem setEntry_endQueue (e : EntryId) (r : Option LineRead) (s : State) : (setEntry e r s).endQueue = s.endQueue := rfl
@[simp] theorem setEntry_slots (e : EntryId) (r : Option LineRead) (s : State) : (setEntry e r s).slots = s.slots := rfl
@[simp] theorem setEntry_slotWait (e : EntryId) (r : Option LineRead) (s : State) : (setEntry e r s).slotWait = s.slotWait := rfl
@[simp] theorem setEntry_lastServed (e : EntryId) (r : Option LineRead) (s : State) : (setEntry e r s).lastServed = s.lastServed := rfl
@[simp] theorem setEntry_lateReads (e : EntryId) (r : Option LineRead) (s : State) : (setEntry e r s).lateReads = s.lateReads := rfl
@[simp] theorem setEntry_configs (e : EntryId) (r : Option LineRead) (s : State) : (setEntry e r s).configs = s.configs := rfl
@[simp] theorem setEntry_groups (e : EntryId) (r : Option LineRead) (s : State) : (setEntry e r s).groups = s.groups := rfl
@[simp] theorem setEntry_eligible (e : EntryId) (r : Option LineRead) (s : State) : (setEntry e r s).eligible = s.eligible := rfl
@[simp] theorem setEntry_profiles (e : EntryId) (r : Option LineRead) (s : State) : (setEntry e r s).profiles = s.profiles := rfl
@[simp] theorem setEntry_lanes (e : EntryId) (r : Option LineRead) (s : State) : (setEntry e r s).lanes = s.lanes := rfl
@[simp] theorem setEntry_pulses (e : EntryId) (r : Option LineRead) (s : State) : (setEntry e r s).pulses = s.pulses := rfl
@[simp] theorem setEntry_cp (e : EntryId) (r : Option LineRead) (s : State) : (setEntry e r s).cp = s.cp := rfl
@[simp] theorem setEntry_comp (e : EntryId) (r : Option LineRead) (s : State) : (setEntry e r s).comp = s.comp := rfl
@[simp] theorem setEntry_holding (e : EntryId) (r : Option LineRead) (s : State) : (setEntry e r s).holding = s.holding := rfl
@[simp] theorem setEntry_intMod (e : EntryId) (r : Option LineRead) (s : State) : (setEntry e r s).intMod = s.intMod := rfl
@[simp] theorem setEntry_condition (e : EntryId) (r : Option LineRead) (s : State) : (setEntry e r s).condition = s.condition := rfl
@[simp] theorem setEntry_link (e : EntryId) (r : Option LineRead) (s : State) : (setEntry e r s).link = s.link := rfl
@[simp] theorem setEntry_pending (e : EntryId) (r : Option LineRead) (s : State) : (setEntry e r s).pending = s.pending := rfl

@[simp] theorem setLastServed_clock (g : GroupId) (s : State) : (setLastServed g s).clock = s.clock := rfl
@[simp] theorem setLastServed_inReset (g : GroupId) (s : State) : (setLastServed g s).inReset = s.inReset := rfl
@[simp] theorem setLastServed_run (g : GroupId) (s : State) : (setLastServed g s).run = s.run := rfl
@[simp] theorem setLastServed_resetting (g : GroupId) (s : State) : (setLastServed g s).resetting = s.resetting := rfl
@[simp] theorem setLastServed_fetchLimit (g : GroupId) (s : State) : (setLastServed g s).fetchLimit = s.fetchLimit := rfl
@[simp] theorem setLastServed_dividerHeld (g : GroupId) (s : State) : (setLastServed g s).dividerHeld = s.dividerHeld := rfl
@[simp] theorem setLastServed_divider (g : GroupId) (s : State) : (setLastServed g s).divider = s.divider := rfl
@[simp] theorem setLastServed_fault (g : GroupId) (s : State) : (setLastServed g s).fault = s.fault := rfl
@[simp] theorem setLastServed_jobs (g : GroupId) (s : State) : (setLastServed g s).jobs = s.jobs := rfl
@[simp] theorem setLastServed_lists (g : GroupId) (s : State) : (setLastServed g s).lists = s.lists := rfl
@[simp] theorem setLastServed_endQueue (g : GroupId) (s : State) : (setLastServed g s).endQueue = s.endQueue := rfl
@[simp] theorem setLastServed_slots (g : GroupId) (s : State) : (setLastServed g s).slots = s.slots := rfl
@[simp] theorem setLastServed_slotWait (g : GroupId) (s : State) : (setLastServed g s).slotWait = s.slotWait := rfl
@[simp] theorem setLastServed_tracker (g : GroupId) (s : State) : (setLastServed g s).tracker = s.tracker := rfl
@[simp] theorem setLastServed_lateReads (g : GroupId) (s : State) : (setLastServed g s).lateReads = s.lateReads := rfl
@[simp] theorem setLastServed_configs (g : GroupId) (s : State) : (setLastServed g s).configs = s.configs := rfl
@[simp] theorem setLastServed_groups (g : GroupId) (s : State) : (setLastServed g s).groups = s.groups := rfl
@[simp] theorem setLastServed_eligible (g : GroupId) (s : State) : (setLastServed g s).eligible = s.eligible := rfl
@[simp] theorem setLastServed_profiles (g : GroupId) (s : State) : (setLastServed g s).profiles = s.profiles := rfl
@[simp] theorem setLastServed_lanes (g : GroupId) (s : State) : (setLastServed g s).lanes = s.lanes := rfl
@[simp] theorem setLastServed_pulses (g : GroupId) (s : State) : (setLastServed g s).pulses = s.pulses := rfl
@[simp] theorem setLastServed_cp (g : GroupId) (s : State) : (setLastServed g s).cp = s.cp := rfl
@[simp] theorem setLastServed_comp (g : GroupId) (s : State) : (setLastServed g s).comp = s.comp := rfl
@[simp] theorem setLastServed_holding (g : GroupId) (s : State) : (setLastServed g s).holding = s.holding := rfl
@[simp] theorem setLastServed_intMod (g : GroupId) (s : State) : (setLastServed g s).intMod = s.intMod := rfl
@[simp] theorem setLastServed_condition (g : GroupId) (s : State) : (setLastServed g s).condition = s.condition := rfl
@[simp] theorem setLastServed_link (g : GroupId) (s : State) : (setLastServed g s).link = s.link := rfl
@[simp] theorem setLastServed_pending (g : GroupId) (s : State) : (setLastServed g s).pending = s.pending := rfl

@[simp] theorem startClocks_clock (s : State) : (startClocks s).clock = s.clock := rfl
@[simp] theorem startClocks_inReset (s : State) : (startClocks s).inReset = s.inReset := rfl
@[simp] theorem startClocks_run (s : State) : (startClocks s).run = s.run := rfl
@[simp] theorem startClocks_resetting (s : State) : (startClocks s).resetting = s.resetting := rfl
@[simp] theorem startClocks_fetchLimit (s : State) : (startClocks s).fetchLimit = s.fetchLimit := rfl
@[simp] theorem startClocks_dividerHeld (s : State) : (startClocks s).dividerHeld = s.dividerHeld := rfl
@[simp] theorem startClocks_divider (s : State) : (startClocks s).divider = s.divider := rfl
@[simp] theorem startClocks_fault (s : State) : (startClocks s).fault = s.fault := rfl
@[simp] theorem startClocks_jobs (s : State) : (startClocks s).jobs = s.jobs := rfl
@[simp] theorem startClocks_lists (s : State) : (startClocks s).lists = s.lists := rfl
@[simp] theorem startClocks_endQueue (s : State) : (startClocks s).endQueue = s.endQueue := rfl
@[simp] theorem startClocks_slots (s : State) : (startClocks s).slots = s.slots := rfl
@[simp] theorem startClocks_slotWait (s : State) : (startClocks s).slotWait = s.slotWait := rfl
@[simp] theorem startClocks_tracker (s : State) : (startClocks s).tracker = s.tracker := rfl
@[simp] theorem startClocks_lastServed (s : State) : (startClocks s).lastServed = s.lastServed := rfl
@[simp] theorem startClocks_lateReads (s : State) : (startClocks s).lateReads = s.lateReads := rfl
@[simp] theorem startClocks_configs (s : State) : (startClocks s).configs = s.configs := rfl
@[simp] theorem startClocks_eligible (s : State) : (startClocks s).eligible = s.eligible := rfl
@[simp] theorem startClocks_profiles (s : State) : (startClocks s).profiles = s.profiles := rfl
@[simp] theorem startClocks_lanes (s : State) : (startClocks s).lanes = s.lanes := rfl
@[simp] theorem startClocks_pulses (s : State) : (startClocks s).pulses = s.pulses := rfl
@[simp] theorem startClocks_cp (s : State) : (startClocks s).cp = s.cp := rfl
@[simp] theorem startClocks_comp (s : State) : (startClocks s).comp = s.comp := rfl
@[simp] theorem startClocks_holding (s : State) : (startClocks s).holding = s.holding := rfl
@[simp] theorem startClocks_intMod (s : State) : (startClocks s).intMod = s.intMod := rfl
@[simp] theorem startClocks_condition (s : State) : (startClocks s).condition = s.condition := rfl
@[simp] theorem startClocks_link (s : State) : (startClocks s).link = s.link := rfl
@[simp] theorem startClocks_pending (s : State) : (startClocks s).pending = s.pending := rfl

end Sys2Proof.Machine
end

