-- ==== Sys2Proof/Laws/Frames.lean ====
section
/-! SUPPORT. Laws/Frames.lean: every shared operation of the Job Table, the Line Store, the Fetch Unit's settling, the line groups
and the Lane Driver stays within `LineFrame`: it leaves every field that predicate does not set aside as it was. -/

namespace Sys2Proof.Machine

theorem LineFrame.refl (s : State) : LineFrame s s := rfl

theorem LineFrame.trans {s t u : State} (h : LineFrame s t) (k : LineFrame t u) : LineFrame s u := by
  unfold LineFrame at *
  calc
    _ = { ({ u with
              jobs := t.jobs, lists := t.lists, endQueue := t.endQueue, slots := t.slots, slotWait := t.slotWait,
              groups := t.groups, eligible := t.eligible, pulses := t.pulses, holding := t.holding } : State) with
          jobs := s.jobs, lists := s.lists, endQueue := s.endQueue, slots := s.slots, slotWait := s.slotWait,
          groups := s.groups, eligible := s.eligible, pulses := s.pulses, holding := s.holding } := rfl
    _ = _ := by rw [k]; exact h

/-! ## The fields a line event leaves alone -/

theorem LineFrame.eq {s t : State} (h : LineFrame s t) :
    { t with
      jobs := s.jobs, lists := s.lists, endQueue := s.endQueue, slots := s.slots, slotWait := s.slotWait, groups := s.groups,
      eligible := s.eligible, pulses := s.pulses, holding := s.holding } = s := h

theorem LineFrame.clock {s t : State} (h : LineFrame s t) : t.clock = s.clock := by
  have e := congrArg State.clock h.eq; exact e
theorem LineFrame.inReset {s t : State} (h : LineFrame s t) : t.inReset = s.inReset := by
  have e := congrArg State.inReset h.eq; exact e
theorem LineFrame.run {s t : State} (h : LineFrame s t) : t.run = s.run := by
  have e := congrArg State.run h.eq; exact e
theorem LineFrame.resetting {s t : State} (h : LineFrame s t) : t.resetting = s.resetting := by
  have e := congrArg State.resetting h.eq; exact e
theorem LineFrame.divider {s t : State} (h : LineFrame s t) : t.divider = s.divider := by
  have e := congrArg State.divider h.eq; exact e
theorem LineFrame.dividerHeld {s t : State} (h : LineFrame s t) : t.dividerHeld = s.dividerHeld := by
  have e := congrArg State.dividerHeld h.eq; exact e
theorem LineFrame.fault {s t : State} (h : LineFrame s t) : t.fault = s.fault := by
  have e := congrArg State.fault h.eq; exact e
theorem LineFrame.tracker {s t : State} (h : LineFrame s t) : t.tracker = s.tracker := by
  have e := congrArg State.tracker h.eq; exact e
theorem LineFrame.configs {s t : State} (h : LineFrame s t) : t.configs = s.configs := by
  have e := congrArg State.configs h.eq; exact e
theorem LineFrame.profiles {s t : State} (h : LineFrame s t) : t.profiles = s.profiles := by
  have e := congrArg State.profiles h.eq; exact e
theorem LineFrame.lanes {s t : State} (h : LineFrame s t) : t.lanes = s.lanes := by
  have e := congrArg State.lanes h.eq; exact e
theorem LineFrame.cp {s t : State} (h : LineFrame s t) : t.cp = s.cp := by
  have e := congrArg State.cp h.eq; exact e
theorem LineFrame.comp {s t : State} (h : LineFrame s t) : t.comp = s.comp := by
  have e := congrArg State.comp h.eq; exact e
theorem LineFrame.intMod {s t : State} (h : LineFrame s t) : t.intMod = s.intMod := by
  have e := congrArg State.intMod h.eq; exact e
theorem LineFrame.condition {s t : State} (h : LineFrame s t) : t.condition = s.condition := by
  have e := congrArg State.condition h.eq; exact e
theorem LineFrame.link {s t : State} (h : LineFrame s t) : t.link = s.link := by
  have e := congrArg State.link h.eq; exact e
theorem LineFrame.pending {s t : State} (h : LineFrame s t) : t.pending = s.pending := by
  have e := congrArg State.pending h.eq; exact e

/-! ## Basic updates -/

theorem place_frame (r : CompRecord) (s : State) : LineFrame s (place r s) := rfl
theorem modJob_frame (c : CtxId) (f : Job → Job) (s : State) : LineFrame s (modJob c f s) := rfl
theorem setJobState_frame (c : CtxId) (st : JobState) (s : State) : LineFrame s (setJobState c st s) := rfl
theorem modGroup_frame (g : GroupId) (f : GroupState → GroupState) (s : State) : LineFrame s (modGroup g f s) := rfl
theorem setSlot_frame (i : SlotId) (st : SlotState) (s : State) : LineFrame s (setSlot i st s) := rfl
theorem setPulse_frame (l : LaneId) (p : Pulse) (s : State) : LineFrame s (setPulse l p s) := rfl
theorem releaseRing_frame (c : CtxId) (s : State) : LineFrame s (releaseRing c s) := rfl
theorem releaseFiring_frame (c : CtxId) (s : State) : LineFrame s (releaseFiring c s) := rfl
theorem noteEligible_frame (s : State) : LineFrame s (noteEligible s) := rfl
theorem setHold_frame (g : GroupId) (h : HoldState) (s : State) : LineFrame s (setHold g h s) := rfl
theorem setClock_frame (g : GroupId) (k : LineClock) (s : State) : LineFrame s (setClock g k s) := rfl
theorem acceptTrigger_frame (g : GroupId) (s : State) : LineFrame s (acceptTrigger g s) := rfl
theorem countBusy_frame (g : GroupId) (s : State) : LineFrame s (countBusy g s) := rfl
theorem countFast_frame (g : GroupId) (s : State) : LineFrame s (countFast g s) := rfl
theorem countIdle_frame (g : GroupId) (s : State) : LineFrame s (countIdle g s) := rfl
theorem countHeld_frame (g : GroupId) (s : State) : LineFrame s (countHeld g s) := rfl
theorem cutSpan_frame (g : GroupId) (s : State) : LineFrame s (cutSpan g s) := rfl
theorem countClips_frame (g : GroupId) (s : State) : LineFrame s (countClips g s) := rfl
theorem cutCounted_frame (g : GroupId) (s : State) : LineFrame s (cutCounted g s) := rfl
theorem formPulses_frame (g : GroupId) (c : CtxId) (i : SlotId) (s : State) : LineFrame s (formPulses g c i s) := rfl

theorem setWait_frame (l : List CtxId) (s : State) : LineFrame s (setWait l s) := rfl
theorem setEndQueue_frame (l : List CtxId) (s : State) : LineFrame s (setEndQueue l s) := rfl
theorem setEligible_frame (l : List GroupId) (s : State) : LineFrame s (setEligible l s) := rfl
theorem readyWaiters_frame (c : CtxId) (s : State) : LineFrame s (readyWaiters c s) := rfl
theorem dropWaiter_frame (g : GroupId) (s : State) : LineFrame s (dropWaiter g s) := rfl
theorem queueEnd_frame (c : CtxId) (s : State) : LineFrame s (queueEnd c s) := rfl
theorem dropFromList_frame (c : CtxId) (g : GroupId) (s : State) : LineFrame s (dropFromList c g s) := rfl
theorem makeDue_frame (c : CtxId) (g : GroupId) (s : State) : LineFrame s (makeDue c g s) := rfl
theorem leaveWait_frame (c : CtxId) (s : State) : LineFrame s (leaveWait c s) := rfl
theorem markEnded_frame (c : CtxId) (st : EndStatus) (s : State) : LineFrame s (markEnded c st s) := rfl

/-! ## Offers to the holding list -/

theorem offerNotice_frame (c : CtxId) (r : CompRecord) (s : State) : LineFrame s (offerNotice c r s) := by
  unfold offerNotice; split
  · exact place_frame r s
  · exact modJob_frame c _ s

theorem placeJobEnd_frame (s : State) : LineFrame s (placeJobEnd s) := by
  unfold placeJobEnd; split
  · exact LineFrame.refl s
  · rename_i c rest _
    split
    · split
      · exact setEndQueue_frame rest s
      · split
        · exact setEndQueue_frame rest s
        · refine LineFrame.trans ?_ (noteEligible_frame _)
          refine LineFrame.trans ?_ (readyWaiters_frame c _)
          exact (place_frame _ s).trans (setEndQueue_frame rest _)
    · exact LineFrame.refl s

theorem placeDrain_frame (s : State) : LineFrame s (placeDrain s) := by
  unfold placeDrain; split
  · exact LineFrame.refl s
  · rename_i g rest _
    split
    · split
      · exact setEligible_frame rest s
      · refine LineFrame.trans ?_ (noteEligible_frame _)
        refine LineFrame.trans ?_ (setEligible_frame rest _)
        exact (place_frame _ s).trans (dropWaiter_frame g _)
    · exact LineFrame.refl s

theorem settleOffers_frame (n : Nat) (s : State) : LineFrame s (settleOffers n s) := by
  induction n generalizing s with
  | zero => rfl
  | succ n ih =>
    unfold settleOffers; split
    · split
      · exact (placeJobEnd_frame s).trans (ih _)
      · split
        · exact (placeDrain_frame s).trans (ih _)
        · rfl
    · rfl

/-! ## Grants and ends -/

theorem armTest_frame (c : CtxId) (s : State) : LineFrame s (armTest c s) := by
  unfold armTest; split
  · rfl
  · split <;> rfl

theorem assignRing_frame (c : CtxId) (slots : List SlotId) (k : Nat) (s : State) : LineFrame s (assignRing c k slots s) := by
  induction slots generalizing k s with
  | nil => rfl
  | cons i is ih => exact (setSlot_frame i _ s).trans (ih _ _)

theorem grantTo_frame (c : CtxId) (d : Nat) (rest : List CtxId) (s : State) : LineFrame s (grantTo c d rest s) := by
  unfold grantTo
  refine LineFrame.trans ?_ (armTest_frame c _)
  refine LineFrame.trans ?_ (setJobState_frame c _ _)
  exact (assignRing_frame c _ 0 s).trans (setWait_frame rest _)

theorem grantLoop_frame (n : Nat) (s : State) : LineFrame s (grantLoop n s) := by
  induction n generalizing s with
  | zero => rfl
  | succ n ih =>
    unfold grantLoop; split
    · rfl
    · split
      · rfl
      · split
        · exact (grantTo_frame _ _ _ s).trans (ih _)
        · rfl

theorem grant_frame (s : State) : LineFrame s (grant s) := grantLoop_frame _ s

theorem joinWait_frame (c : CtxId) (s : State) : LineFrame s (joinWait c s) := rfl

theorem moveUp_frame (g : GroupId) (s : State) : LineFrame s (moveUp g s) := by
  unfold moveUp; split
  · rfl
  · split <;> rfl

theorem leaveList_frame (c : CtxId) (g : GroupId) (s : State) : LineFrame s (leaveList c g s) := by
  unfold leaveList; split
  · rfl
  · exact (dropFromList_frame c g s).trans (moveUp_frame g _)

theorem endJob_frame (c : CtxId) (st : EndStatus) (s : State) : LineFrame s (endJob c st s) := by
  unfold endJob; split
  · rfl
  · refine LineFrame.trans ?_ (settleOffers_frame _ _)
    refine LineFrame.trans ?_ (grant_frame _)
    refine LineFrame.trans ?_ (queueEnd_frame c _)
    refine LineFrame.trans ?_ (leaveList_frame c _ _)
    exact ((markEnded_frame c st s).trans (leaveWait_frame c _)).trans (releaseRing_frame c _)

/-! ## Settling -/

theorem retireHead_frame (c : CtxId) (e : Extent) (rest : List Extent) (s : State) :
    LineFrame s (retireHead c e rest s) := by
  unfold retireHead; split
  · rfl
  · split
    · exact LineFrame.trans (modJob_frame c _ s) (offerNotice_frame c _ _)
    · rfl

theorem retireFrom_frame (c : CtxId) (es : List Extent) (s : State) : LineFrame s (retireFrom c es s) := by
  induction es generalizing s with
  | nil => rfl
  | cons e es ih =>
    unfold retireFrom; split
    · exact (retireHead_frame c e es s).trans (ih _)
    · rfl

theorem settleLine_frame (c : CtxId) (n : Nat) (s : State) : LineFrame s (settleLine c n s) := by
  unfold settleLine; split
  · rfl
  · exact LineFrame.trans (modJob_frame c _ s) (retireFrom_frame c _ _)

/-! ## Line events -/

theorem latchProfile_frame (g : GroupId) (p : ProfileId) (s : State) : LineFrame s (latchProfile g p s) := by
  unfold latchProfile; split <;> rfl

theorem markTest_frame (c : CtxId) (s : State) : LineFrame s (markTest c s) := by
  unfold markTest; split
  · rfl
  · split
    · exact offerNotice_frame c _ s
    · rfl

theorem lastLineTest_frame (c : CtxId) (n : Nat) (s : State) : LineFrame s (lastLineTest c n s) := by
  unfold lastLineTest; split
  · rfl
  · split
    · split
      · exact endJob_frame c _ s
      · rfl
    · rfl

theorem fireLine_frame (g : GroupId) (c : CtxId) (j : Job) (i : SlotId) (s : State) : LineFrame s (fireLine g c j i s) := by
  unfold fireLine
  refine LineFrame.trans ?_ (lastLineTest_frame c _ _)
  refine LineFrame.trans ?_ (markTest_frame c _)
  exact ((setSlot_frame i _ s).trans (latchProfile_frame g _ _)).trans rfl

theorem skipEndTest_frame (c : CtxId) (s : State) : LineFrame s (skipEndTest c s) := by
  unfold skipEndTest; split
  · rfl
  · split
    · exact endJob_frame c _ s
    · rfl

theorem skipSlot_frame (c : CtxId) (n : Nat) (i : Option SlotId) (s : State) : LineFrame s (skipSlot c n i s) := by
  have h : LineFrame s (settleLine c n (modJob c (fun j => { j with cursor := max j.cursor (n + 1) }) s)) :=
    (modJob_frame c _ s).trans (settleLine_frame c n _)
  unfold skipSlot; split
  · exact h
  · split <;> first | exact h | rfl

theorem underrun_frame (c : CtxId) (j : Job) (i : Option SlotId) (s : State) : LineFrame s (underrun c j i s) := by
  unfold underrun; split
  · split
    · refine LineFrame.trans ?_ (skipEndTest_frame c _)
      exact (skipSlot_frame c _ i s).trans rfl
    · rfl
  · rfl
  · exact endJob_frame c _ s

theorem runLine_frame (g : GroupId) (c : CtxId) (j : Job) (s : State) : LineFrame s (runLine g c j s) := by
  unfold runLine; split
  · exact underrun_frame c j _ s
  · split
    · exact fireLine_frame g c j _ s
    · exact underrun_frame c j _ s

theorem actOnFront_frame (g : GroupId) (s : State) : LineFrame s (actOnFront g s) := by
  unfold actOnFront; split
  · rfl
  · rename_i c j _
    split <;> first
      | exact (releaseFiring_frame c s).trans (runLine_frame g c j _)
      | exact (releaseFiring_frame c s).trans (endJob_frame c _ _)
      | rfl

theorem startFiring_frame (g : GroupId) (c : CtxId) (j : Job) (s : State) : LineFrame s (startFiring g c j s) :=
  (setJobState_frame c _ s).trans (runLine_frame g c _ _)

theorem deliver_frame (g : GroupId) (s : State) : LineFrame s (deliver g s) := by
  have h : LineFrame s (actOnFront g (cutCounted g s)) := (cutCounted_frame g s).trans (actOnFront_frame g _)
  unfold deliver; extract_lets t
  split
  · exact h.trans (startFiring_frame g _ _ t)
  · split
    · exact h
    · exact h.trans (countIdle_frame g t)

theorem ownEvent_frame (g : GroupId) (s : State) : LineFrame s (ownEvent g s) := by
  unfold ownEvent; extract_lets t
  split
  · exact LineFrame.trans (t := t) rfl (deliver_frame g t)
  · rfl
  · rfl

theorem leaderEvent_frame (own : GroupId → State → State) (h : ∀ f t, LineFrame t (own f t)) (g f : GroupId) (s : State) :
    LineFrame s (leaderEvent own g s f) := by
  unfold leaderEvent
  split
  · split <;> first | rfl | skip
    split
    · exact (acceptTrigger_frame f s).trans (h f _)
    · rfl
  · rfl

/-- A fold of steps that each stay within the frame stays within it. -/
theorem LineFrame.foldl {β : Type} (step : State → β → State) (h : ∀ s b, LineFrame s (step s b)) (l : List β) (s : State) :
    LineFrame s (l.foldl step s) := by
  induction l generalizing s with
  | nil => rfl
  | cons b l ih => exact (h s b).trans (ih _)

theorem lineEvent_frame (n : Nat) (g : GroupId) (s : State) : LineFrame s (lineEvent n g s) := by
  induction n generalizing g s with
  | zero => rfl
  | succ n ih =>
    exact (ownEvent_frame g s).trans (LineFrame.foldl _ (fun t f => leaderEvent_frame _ (fun f t => ih f t) g f t) _ _)

theorem produceLineEvent_frame (g : GroupId) (s : State) : LineFrame s (produceLineEvent g s) := lineEvent_frame 4 g s

end Sys2Proof.Machine
end

