-- ==== Sys2Proof/Laws/Ops.lean ====
section
/-! SUPPORT. Laws/Ops.lean: for each shared operation, one lemma that says once everything it can do: time, the interrupt and
faults, the holding list, slots and grants, arming, the end of a job, settling. -/

namespace Sys2Proof.Machine

/-! ## Time -/

/-- `toTick` moves the clock alone, to the start of the tick if that lies ahead. -/
theorem toTick_spec (t : Nat) (s : State) :
    { toTick t s with clock := s.clock } = s ∧ (toTick t s).clock.tick = max s.clock.tick t ∧
      (toTick t s).clock.mhz = s.clock.mhz ∧ s.clock.now ≤ (toTick t s).clock.now := by
  unfold toTick
  split
  · exact ⟨rfl, by simp; omega, rfl, by simp⟩
  · exact ⟨rfl, by omega, rfl, by omega⟩

/-- `toMoment` moves the clock alone, to the moment if that lies ahead. -/
theorem toMoment_spec (m : Nat) (s : State) :
    { toMoment m s with clock := s.clock } = s ∧ (toMoment m s).clock.now = max s.clock.now m ∧
      (toMoment m s).clock.mhz = s.clock.mhz := by
  unfold toMoment
  split
  · exact ⟨rfl, by simp [advance]; omega, rfl⟩
  · exact ⟨rfl, by omega, rfl⟩

/-! ## Interrupt and faults -/

/-- An evaluation stores the condition's value and sends one message if it was found true after it was false. -/
theorem evalInterrupt_eq (s : State) :
    evalInterrupt s = { s with
      condition := conditionNow s
      link := s.link ++ if conditionNow s && !s.condition then [.interrupt] else [] } := by
  unfold evalInterrupt; split <;> rename_i h
  · simp [emit]
  · simp

theorem faultPending_iff (k : FaultKinds) : faultPending k = true ↔ k ≠ noKinds := by
  rcases k with ⟨a, b, c, d⟩
  cases a <;> cases b <;> cases c <;> cases d <;> simp [faultPending, noKinds]

/-- A fault of a kind that is in the set already changes nothing. -/
theorem handFault_same (kind : FaultKinds) (ring : FaultRing) (index : Short) (s : State)
    (h : joinKinds s.fault.kinds kind = s.fault.kinds) : handFault kind ring index s = s := by
  simp [handFault, h]

/-- A fault of a new kind is recorded and evaluated. -/
theorem handFault_new (kind : FaultKinds) (ring : FaultRing) (index : Short) (s : State)
    (h : joinKinds s.fault.kinds kind ≠ s.fault.kinds) :
    handFault kind ring index s = evalInterrupt { s with fault := recordFault s.fault kind ring index } := by
  simp [handFault, h]

/-! ## The holding list -/

theorem unreservedFree_iff (s : State) : unreservedFree s = true ↔ s.holding.length + bit s.cp.reserved < 8 := by
  unfold unreservedFree; exact decide_eq_true_iff

/-- What placing waiting offers can change. -/
def OfferFrame (s t : State) : Prop :=
  { t with endQueue := s.endQueue, groups := s.groups, eligible := s.eligible, holding := s.holding } = s ∧
  ∀ g : GroupId, { t.groups[g] with waiters := s.groups[g].waiters } = s.groups[g]

theorem OfferFrame.refl (s : State) : OfferFrame s s := ⟨rfl, fun _ => rfl⟩

theorem OfferFrame.trans {s t u : State} (h : OfferFrame s t) (k : OfferFrame t u) : OfferFrame s u := by
  refine ⟨?_, fun g => ?_⟩
  · calc
      _ = { ({ u with endQueue := t.endQueue, groups := t.groups, eligible := t.eligible, holding := t.holding } : State) with
            endQueue := s.endQueue, groups := s.groups, eligible := s.eligible, holding := s.holding } := rfl
      _ = _ := by rw [k.1]; exact h.1
  · exact (congrArg (fun x : GroupState => { x with waiters := s.groups[g].waiters }) (k.2 g)).trans (h.2 g)

theorem OfferFrame.fields {s t : State} (h : OfferFrame s t) :
    t.jobs = s.jobs ∧ t.lists = s.lists ∧ t.slots = s.slots ∧ t.slotWait = s.slotWait ∧ t.pulses = s.pulses ∧ t.cp = s.cp :=
  ⟨by have e := congrArg State.jobs h.1; exact e, by have e := congrArg State.lists h.1; exact e,
    by have e := congrArg State.slots h.1; exact e, by have e := congrArg State.slotWait h.1; exact e,
    by have e := congrArg State.pulses h.1; exact e, by have e := congrArg State.cp h.1; exact e⟩

/-- A JOB_END that can be placed: its record joins the holding list, and the waiters that noted the job may be offered. -/
theorem placeJobEnd_some {c : CtxId} {rest : List CtxId} {j : Job} {st : EndStatus} {s : State} (hf : unreservedFree s = true)
    (hq : s.endQueue = c :: rest) (hj : s.jobs[c] = some j) (hs : j.state = .ended st) :
    placeJobEnd s = noteEligible (readyWaiters c (setEndQueue rest (place (jobEndRecord c j st) s))) := by
  simp only [placeJobEnd, hq, hf, if_true, hj, hs, endStatusOf]

theorem placeDrain_some {g : GroupId} {rest : List GroupId} {w : DrainWaiter} {ws : List DrainWaiter} {s : State}
    (hf : unreservedFree s = true) (he : s.eligible = g :: rest) (hw : s.groups[g].waiters = w :: ws) :
    placeDrain s = noteEligible (setEligible rest (dropWaiter g (place (.response w.cmdId .ok 0) s))) := by
  simp only [placeDrain, he, hf, if_true, hw]

theorem place_offer (r : CompRecord) (s : State) : OfferFrame s (place r s) := ⟨rfl, fun _ => rfl⟩
theorem setEndQueue_offer (l : List CtxId) (s : State) : OfferFrame s (setEndQueue l s) := ⟨rfl, fun _ => rfl⟩
theorem setEligible_offer (l : List GroupId) (s : State) : OfferFrame s (setEligible l s) := ⟨rfl, fun _ => rfl⟩
theorem noteEligible_offer (s : State) : OfferFrame s (noteEligible s) := ⟨rfl, fun _ => rfl⟩
theorem readyWaiters_offer (c : CtxId) (s : State) : OfferFrame s (readyWaiters c s) :=
  ⟨rfl, fun g => by rw [readyWaiters_get]⟩
theorem dropWaiter_offer (g : GroupId) (s : State) : OfferFrame s (dropWaiter g s) :=
  ⟨rfl, fun h => by
    rw [dropWaiter, modGroup_get]; split
    · rename_i e; subst e; rfl
    · rfl⟩

theorem placeJobEnd_offer (s : State) : OfferFrame s (placeJobEnd s) := by
  unfold placeJobEnd
  split
  · exact .refl s
  · split
    · split
      · exact setEndQueue_offer _ s
      · split
        · exact setEndQueue_offer _ s
        · exact (((place_offer _ s).trans (setEndQueue_offer _ _)).trans (readyWaiters_offer _ _)).trans (noteEligible_offer _)
    · exact .refl s

theorem placeDrain_offer (s : State) : OfferFrame s (placeDrain s) := by
  unfold placeDrain
  split
  · exact .refl s
  · split
    · split
      · exact setEligible_offer _ s
      · exact (((place_offer _ s).trans (dropWaiter_offer _ _)).trans (setEligible_offer _ _)).trans (noteEligible_offer _)
    · exact .refl s

/-- Settling the waiting offers leaves every other block as it was. -/
theorem settleOffers_offer (n : Nat) (s : State) : OfferFrame s (settleOffers n s) := by
  induction n generalizing s with
  | zero => exact .refl s
  | succ n ih =>
    unfold settleOffers
    split
    · split
      · exact (placeJobEnd_offer s).trans (ih _)
      · split
        · exact (placeDrain_offer s).trans (ih _)
        · exact .refl s
    · exact .refl s

/-- With no unreserved entry free no offer is taken. -/
theorem settleOffers_full (n : Nat) (s : State) (h : unreservedFree s = false) : settleOffers n s = s := by
  cases n <;> simp [settleOffers, h]

/-- With nothing waiting no offer is taken. -/
theorem settleOffers_idle (n : Nat) (s : State) (h : s.endQueue = []) (k : s.eligible = []) : settleOffers n s = s := by
  cases n <;> simp [settleOffers, h, k]

/-! ## Arming and grants -/

/-- A test for arming makes a PRIMED job ARMED or changes nothing. -/
theorem armTest_eq (c : CtxId) (s : State) :
    armTest c s = match s.jobs[c] with
      | none => s
      | some j => if j.state = .primed ∧ armed s c j = true then setJobState c .armed s else s := by
  unfold armTest; rfl

theorem armTest_get_ne {c d : CtxId} (s : State) (h : d ≠ c) : (armTest c s).jobs[d] = s.jobs[d] := by
  unfold armTest
  split
  · rfl
  · split
    · exact modJob_get_ne _ s h
    · rfl

theorem armTest_rest (c : CtxId) (s : State) : { armTest c s with jobs := s.jobs } = s := by
  unfold armTest
  split
  · rfl
  · split <;> rfl

/-- The slots given are EMPTY with their ring indices, in order; every other slot is as it was. -/
theorem assignRing_spec (c : CtxId) (l : List SlotId) (hl : l.Nodup) (k : Nat) (s : State) :
    (∀ (n : Nat) (i : SlotId), l[n]? = some i →
      (assignRing c k l s).slots[i] = { s.slots[i] with state := .empty c (k + n) }) ∧
    (∀ i : SlotId, i ∉ l → (assignRing c k l s).slots[i] = s.slots[i]) ∧
    { assignRing c k l s with slots := s.slots } = s := by
  induction l generalizing k s with
  | nil => exact ⟨by simp, by simp [assignRing], rfl⟩
  | cons i is ih =>
    obtain ⟨hi, his⟩ := List.nodup_cons.1 hl
    obtain ⟨h1, h2, h3⟩ := ih his (k + 1) (setSlot i (.empty c k) s)
    refine ⟨fun n m hm => ?_, fun m hm => ?_, ?_⟩
    · cases n with
      | zero =>
        simp at hm
        subst hm
        show (assignRing c (k + 1) is _).slots[i] = _
        rw [h2 i hi, setSlot_get]; simp
      | succ n =>
        simp at hm
        have hne : m ≠ i := fun e => hi (e ▸ List.mem_of_getElem? hm)
        show (assignRing c (k + 1) is _).slots[m] = _
        rw [h1 n m hm, setSlot_get]
        simp [hne, Nat.add_assoc, Nat.add_comm 1 n]
    · simp at hm
      show (assignRing c (k + 1) is _).slots[m] = _
      rw [h2 m hm.2, setSlot_get]; simp [hm.1]
    · calc
        _ = { ({ assignRing c (k + 1) is (setSlot i (.empty c k) s) with slots := (setSlot i (.empty c k) s).slots } : State) with
              slots := s.slots } := rfl
        _ = _ := by rw [h3]; rfl

theorem freeSlots_nodup (s : State) : (freeSlots s).Nodup := (List.nodup_finRange 32).filter _

theorem mem_freeSlots (s : State) (i : SlotId) : i ∈ freeSlots s ↔ s.slots[i].state = .free := by
  simp [freeSlots, slotFree]

/-- What a grant can change. -/
def GrantFrame (s t : State) : Prop :=
  { t with jobs := s.jobs, slots := s.slots, slotWait := s.slotWait } = s ∧
  (∃ l, s.slotWait = l ++ t.slotWait) ∧
  (∀ d : CtxId, d ∉ s.slotWait → t.jobs[d] = s.jobs[d]) ∧
  (∀ d : CtxId, ∀ j, s.jobs[d] = some j → ∃ st, t.jobs[d] = some { j with state := st }) ∧
  (∀ d : CtxId, s.jobs[d] = none → t.jobs[d] = none) ∧
  (∀ i : SlotId, t.slots[i] = s.slots[i] ∨
    (s.slots[i].state = .free ∧ ∃ d ∈ s.slotWait, ∃ k, t.slots[i] = { s.slots[i] with state := .empty d k }))

theorem GrantFrame.refl (s : State) : GrantFrame s s :=
  ⟨rfl, ⟨[], rfl⟩, fun _ _ => rfl, fun _ j h => ⟨j.state, h⟩, fun _ h => h, fun _ => .inl rfl⟩

theorem GrantFrame.trans {s t u : State} (h : GrantFrame s t) (k : GrantFrame t u) : GrantFrame s u := by
  obtain ⟨h1, ⟨l, h2⟩, h3, h4, h5, h6⟩ := h
  obtain ⟨k1, ⟨m, k2⟩, k3, k4, k5, k6⟩ := k
  have sub : ∀ d, d ∈ t.slotWait → d ∈ s.slotWait := fun d hd => by rw [h2]; exact List.mem_append_right _ hd
  refine ⟨?_, ⟨l ++ m, by rw [h2, k2, List.append_assoc]⟩, fun d hd => ?_, fun d j hj => ?_, fun d hd => k5 d (h5 d hd), fun i => ?_⟩
  · calc
      _ = { ({ u with jobs := t.jobs, slots := t.slots, slotWait := t.slotWait } : State) with
            jobs := s.jobs, slots := s.slots, slotWait := s.slotWait } := rfl
      _ = _ := by rw [k1]; exact h1
  · rw [k3 d (fun e => hd (sub d e)), h3 d hd]
  · obtain ⟨st, e⟩ := h4 d j hj
    obtain ⟨st', e'⟩ := k4 d _ e
    exact ⟨st', e'⟩
  · rcases k6 i with e | ⟨hf, d, hd, n, e⟩
    · rcases h6 i with e' | ⟨hf', d, hd, n, e'⟩
      · exact .inl (e.trans e')
      · exact .inr ⟨hf', d, hd, n, e.trans e'⟩
    · rcases h6 i with e' | ⟨hf', d', hd', n', e'⟩
      · refine .inr ⟨e' ▸ hf, d, sub d hd, n, ?_⟩
        rw [e, e']
      · rw [e'] at hf; cases hf

theorem grantTo_grant {c : CtxId} {rest : List CtxId} (d : Nat) (s : State) (h : s.slotWait = c :: rest) :
    GrantFrame s (grantTo c d rest s) := by
  obtain ⟨a1, a2, a3⟩ := assignRing_spec c ((freeSlots s).take d) ((freeSlots_nodup s).take) 0 s
  have jobs : (assignRing c 0 ((freeSlots s).take d) s).jobs = s.jobs := by
    have e := congrArg State.jobs a3; exact e
  let u := setJobState c .primed (setWait rest (assignRing c 0 ((freeSlots s).take d) s))
  have slots : (grantTo c d rest s).slots = (assignRing c 0 ((freeSlots s).take d) s).slots := by
    have e := congrArg State.slots (armTest_rest c u); exact e
  have wait : (grantTo c d rest s).slotWait = rest := by
    have e := congrArg State.slotWait (armTest_rest c u); exact e
  have other : ∀ e : CtxId, e ≠ c → (grantTo c d rest s).jobs[e] = s.jobs[e] := fun e he => by
    show (armTest c u).jobs[e] = _
    rw [armTest_get_ne u he]
    show (modJob c _ _).jobs[e] = _
    rw [modJob_get_ne _ _ he, setWait_jobs, jobs]
  have self : (grantTo c d rest s).jobs[c] = (s.jobs[c]).map (fun j => { j with state := .primed }) ∨
      (grantTo c d rest s).jobs[c] = (s.jobs[c]).map (fun j => { j with state := .armed }) := by
    have hu : u.jobs[c] = (s.jobs[c]).map (fun j => { j with state := .primed }) := by
      show (modJob c _ _).jobs[c] = _
      rw [modJob_get_self, setWait_jobs, jobs]
    show (armTest c u).jobs[c] = _ ∨ (armTest c u).jobs[c] = _
    rw [armTest_eq]
    split
    · exact .inl hu
    · split
      · right
        show (modJob c _ u).jobs[c] = _
        rw [modJob_get_self, hu, Option.map_map]; rfl
      · exact .inl hu
  refine ⟨?_, ⟨[c], by rw [h, wait]; rfl⟩, fun e he => other e (fun x => he (by simp [h, x])), fun e j hj => ?_, fun e he => ?_,
    fun i => ?_⟩
  · have e1 : { grantTo c d rest s with jobs := u.jobs } = u := armTest_rest c u
    calc
      _ = { ({ grantTo c d rest s with jobs := u.jobs } : State) with
            jobs := s.jobs, slots := s.slots, slotWait := s.slotWait } := rfl
      _ = { ({ assignRing c 0 ((freeSlots s).take d) s with slots := s.slots } : State) with
            jobs := s.jobs, slotWait := s.slotWait } := by rw [e1]; rfl
      _ = s := by rw [a3]
  · by_cases he : e = c
    · subst he
      rcases self with x | x <;> rw [hj] at x
      · exact ⟨_, x⟩
      · exact ⟨_, x⟩
    · exact ⟨j.state, by rw [other e he, hj]⟩
  · by_cases hc : e = c
    · subst hc
      rcases self with x | x <;> rw [he] at x <;> exact x
    · rw [other e hc, he]
  · by_cases hi : i ∈ (freeSlots s).take d
    · obtain ⟨n, hn⟩ := List.getElem?_of_mem hi
      exact .inr ⟨(mem_freeSlots s i).1 (List.mem_of_mem_take hi), c, by simp [h], 0 + n, by rw [slots, a1 n i hn]⟩
    · exact .inl (by rw [slots, a2 i hi])

theorem grantLoop_grant (n : Nat) (s : State) : GrantFrame s (grantLoop n s) := by
  induction n generalizing s with
  | zero => exact .refl s
  | succ n ih =>
    unfold grantLoop
    split
    · exact .refl s
    · split
      · exact .refl s
      · split
        · rename_i h _ _ _ _
          exact (grantTo_grant _ s h).trans (ih _)
        · exact .refl s

/-- The grant rule reaches WAITING jobs and FREE slots alone. -/
theorem grant_grant (s : State) : GrantFrame s (grant s) := grantLoop_grant _ s

/-- With an empty wait list no grant is made. -/
theorem grant_empty (s : State) (h : s.slotWait = []) : grant s = s := by simp [grant, h, grantLoop]

/-- The state with other job lists, group records and end queue: parts the grant rule neither reads nor changes. -/
def besideGrant (l : Vector (List CtxId) 4) (g : Vector GroupState 4) (q : List CtxId) (s : State) : State :=
  { s with lists := l, groups := g, endQueue := q }

theorem armTest_besideGrant (l : Vector (List CtxId) 4) (g : Vector GroupState 4) (q : List CtxId) (c : CtxId) (s : State) :
    armTest c (besideGrant l g q s) = besideGrant l g q (armTest c s) := by
  have e (j : Job) : armed (besideGrant l g q s) c j = armed s c j := rfl
  have f : (besideGrant l g q s).jobs = s.jobs := rfl
  simp only [armTest_eq, f, e]
  cases s.jobs[c] with
  | none => rfl
  | some j =>
    dsimp only
    split <;> rfl

theorem assignRing_besideGrant (l : Vector (List CtxId) 4) (g : Vector GroupState 4) (q : List CtxId) (c : CtxId) (is : List SlotId)
    (k : Nat) (s : State) : assignRing c k is (besideGrant l g q s) = besideGrant l g q (assignRing c k is s) := by
  induction is generalizing k s with
  | nil => rfl
  | cons i is ih => exact ih (k + 1) (setSlot i (.empty c k) s)

theorem grantTo_besideGrant (l : Vector (List CtxId) 4) (g : Vector GroupState 4) (q : List CtxId) (c : CtxId) (d : Nat)
    (rest : List CtxId) (s : State) : grantTo c d rest (besideGrant l g q s) = besideGrant l g q (grantTo c d rest s) := by
  have e : freeSlots (besideGrant l g q s) = freeSlots s := rfl
  unfold grantTo
  rw [e, assignRing_besideGrant]
  exact armTest_besideGrant l g q c (setJobState c .primed (setWait rest (assignRing c 0 ((freeSlots s).take d) s)))

theorem grantLoop_besideGrant (l : Vector (List CtxId) 4) (g : Vector GroupState 4) (q : List CtxId) (n : Nat) (s : State) :
    grantLoop n (besideGrant l g q s) = besideGrant l g q (grantLoop n s) := by
  induction n generalizing s with
  | zero => rfl
  | succ n ih =>
    have e : freeCount (besideGrant l g q s) = freeCount s := rfl
    have f : (besideGrant l g q s).jobs = s.jobs := rfl
    have w : (besideGrant l g q s).slotWait = s.slotWait := rfl
    unfold grantLoop
    rw [w]
    cases s.slotWait with
    | nil => rfl
    | cons c rest =>
      simp only [e, f]
      cases s.jobs[c] with
      | none => rfl
      | some j =>
        dsimp only
        rw [grantTo_besideGrant, ih]
        split <;> rfl

/-- The grant rule reads and changes neither job lists nor group records nor the end queue (R43). -/
theorem grant_besideGrant (l : Vector (List CtxId) 4) (g : Vector GroupState 4) (q : List CtxId) (s : State) :
    grant (besideGrant l g q s) = besideGrant l g q (grant s) := grantLoop_besideGrant l g q s.slotWait.length s

theorem grantTo_slotWait (c : CtxId) (d : Nat) (rest : List CtxId) (s : State) : (grantTo c d rest s).slotWait = rest :=
  congrArg State.slotWait
    (armTest_rest c (setJobState c .primed (setWait rest (assignRing c 0 ((freeSlots s).take d) s))))

/-- A head that does not fit stops the grant rule (R43). -/
theorem grant_short {c : CtxId} {rest : List CtxId} {j : Job} (s : State) (h : s.slotWait = c :: rest) (k : s.jobs[c] = some j)
    (l : freeCount s < j.depth) : grant s = s := by
  simp only [grant, h, List.length_cons, grantLoop, k, if_neg (Nat.not_le.mpr l)]

/-- A head that fits is granted, and the grant rule goes on with what is left (R43). -/
theorem grant_fits {c : CtxId} {rest : List CtxId} {j : Job} (s : State) (h : s.slotWait = c :: rest) (k : s.jobs[c] = some j)
    (l : j.depth ≤ freeCount s) : grant s = grant (grantTo c j.depth rest s) := by
  simp only [grant, h, List.length_cons, grantLoop, k, if_pos l, grantTo_slotWait]

/-! ## The end of a job -/

theorem releasedState_place (c : CtxId) (k : Nat) (st : SlotState) : ringPlace (releasedState c st) ≠ some (c, k) := by
  cases st <;> simp only [releasedState] <;> first | (split <;> simp_all [ringPlace]) | simp [ringPlace]

/-- What a move-up can change. -/
theorem moveUp_spec (g : GroupId) (s : State) :
    { moveUp g s with jobs := s.jobs, slotWait := s.slotWait } = s ∧
    (moveUp g s = s ∨ ∃ d, s.lists[g][1]? = some d ∧ jobStateOf s d = some .pending ∧ moveUp g s = joinWait d s) := by
  unfold moveUp
  split
  · exact ⟨rfl, .inl rfl⟩
  · rename_i d hd
    split
    · rename_i hp
      exact ⟨rfl, .inr ⟨d, hd, hp, rfl⟩⟩
    · exact ⟨rfl, .inl rfl⟩

/-- A job that leaves its list: the list without it; waiters of an emptied list become due; at most one other job, PENDING at
position 1, joins the wait list. -/
theorem leaveList_spec (c : CtxId) (g : GroupId) (s : State) :
    (∀ h : GroupId, (leaveList c g s).lists[h] =
      if h = g then s.lists[g].filter (fun d => decide (d ≠ c)) else s.lists[h]) ∧
    (∀ h : GroupId, (leaveList c g s).groups[h] =
      if h = g ∧ s.lists[g].filter (fun d => decide (d ≠ c)) = [] then
        { s.groups[g] with waiters := s.groups[g].waiters.map (dueWaiter c) } else s.groups[h]) ∧
    { leaveList c g s with jobs := s.jobs, lists := s.lists, slotWait := s.slotWait, groups := s.groups } = s ∧
    ((leaveList c g s).jobs = s.jobs ∧ (leaveList c g s).slotWait = s.slotWait ∨
      ∃ d, d ≠ c ∧ d ∈ s.lists[g] ∧ jobStateOf s d = some .pending ∧ (leaveList c g s).slotWait = s.slotWait ++ [d] ∧
        (leaveList c g s).jobs = (setJobState d .waiting s).jobs) := by
  have hl : (dropFromList c g s).lists[g] = s.lists[g].filter (fun d => decide (d ≠ c)) := by
    rw [dropFromList_get, if_pos rfl]
  unfold leaveList
  rw [hl]
  by_cases he : s.lists[g].filter (fun d => decide (d ≠ c)) = []
  · rw [if_pos he]
    refine ⟨fun h => ?_, fun h => ?_, rfl, .inl ⟨rfl, rfl⟩⟩
    · show (dropFromList c g s).lists[h] = _
      exact dropFromList_get c g h s
    · show (modGroup g _ _).groups[h] = _
      rw [modGroup_get, dropFromList_groups]
      by_cases e : h = g
      · subst e; rw [if_pos rfl, if_pos ⟨rfl, he⟩]
      · simp [e]
  · rw [if_neg he]
    obtain ⟨m1, m2⟩ := moveUp_spec g (dropFromList c g s)
    have ml : (moveUp g (dropFromList c g s)).lists = (dropFromList c g s).lists := by
      have e := congrArg State.lists m1; exact e
    have mg : (moveUp g (dropFromList c g s)).groups = s.groups := by
      have e := congrArg State.groups m1; exact e
    refine ⟨fun h => ?_, fun h => ?_, ?_, ?_⟩
    · rw [ml]; exact dropFromList_get c g h s
    · rw [mg, if_neg (fun e => he e.2)]
    · calc
        _ = { ({ moveUp g (dropFromList c g s) with
                jobs := (dropFromList c g s).jobs, slotWait := (dropFromList c g s).slotWait } : State) with
              jobs := s.jobs, lists := s.lists, slotWait := s.slotWait, groups := s.groups } := rfl
        _ = s := by rw [m1]; rfl
    · rcases m2 with e | ⟨d, h1, h2, e⟩
      · rw [e]; exact .inl ⟨rfl, rfl⟩
      · rw [hl] at h1
        have hm := List.mem_of_getElem? h1
        simp at hm
        rw [e]
        exact .inr ⟨d, hm.2, hm.1, h2, rfl, rfl⟩

/-- The state of a job's end before the grant rule is considered and its JOB_END offered. -/
def leaving (c : CtxId) (st : EndStatus) (g : GroupId) (s : State) : State :=
  queueEnd c (leaveList c g (releaseRing c (leaveWait c (markEnded c st s))))

theorem endJob_some {c : CtxId} {j : Job} (st : EndStatus) {s : State} (h : s.jobs[c] = some j) :
    endJob c st s = settleOffers Config.holdingCapacity (grant (leaving c st j.group s)) := by
  simp only [endJob, h, leaving]

/-- The end of a job, all but the offer of its JOB_END: the job itself, its ring, the wait list, the group's list. -/
theorem endJob_spec {c : CtxId} {j : Job} (st : EndStatus) {s : State} (h : s.jobs[c] = some j) :
    (endJob c st s).jobs[c] = some { j with state := .ended st, extents := [], retired := 0, cursor := 0 } ∧
    (∀ (i : SlotId) (k : Nat), ringPlace (endJob c st s).slots[i].state ≠ some (c, k)) ∧ c ∉ (endJob c st s).slotWait ∧
    (∀ g : GroupId, (endJob c st s).lists[g] =
      if g = j.group then s.lists[g].filter (fun d => decide (d ≠ c)) else s.lists[g]) ∧
    (∀ g : GroupId, { (endJob c st s).groups[g] with waiters := s.groups[g].waiters } = s.groups[g]) ∧
    (endJob c st s).pulses = s.pulses ∧
    (∀ (d : CtxId) (m : Job), d ≠ c → s.jobs[d] = some m → ∃ x, (endJob c st s).jobs[d] = some { m with state := x }) ∧
    (∀ d : CtxId, s.jobs[d] = none → (endJob c st s).jobs[d] = none) := by
  obtain ⟨l1, l2, l3, l4⟩ := leaveList_spec c j.group (releaseRing c (leaveWait c (markEnded c st s)))
  let u := leaving c st j.group s
  obtain ⟨g1, ⟨pre, g2⟩, g3, g4, g5, g6⟩ := grant_grant u
  have o := settleOffers_offer Config.holdingCapacity (grant u)
  obtain ⟨o1, o2, o3, o4, o5, -⟩ := o.fields
  rw [endJob_some st h]
  have jc : u.jobs[c] = some { j with state := .ended st, extents := [], retired := 0, cursor := 0 } := by
    show (leaveList c j.group _).jobs[c] = _
    have base : (markEnded c st s).jobs[c] = some { j with state := .ended st, extents := [], retired := 0, cursor := 0 } := by
      show (modJob c _ s).jobs[c] = _
      rw [modJob_get_self, h]; rfl
    rcases l4 with ⟨e, -⟩ | ⟨d, hd, -, -, -, e⟩
    · rw [e]; exact base
    · rw [e]
      show (modJob d _ _).jobs[c] = _
      rw [modJob_get_ne _ _ (Ne.symm hd)]; exact base
  have uw : c ∉ u.slotWait := by
    show c ∉ (leaveList c j.group _).slotWait
    rcases l4 with ⟨-, e⟩ | ⟨d, hd, -, -, e, -⟩
    · rw [e]; simp [leaveWait]
    · rw [e]; simp [leaveWait, Ne.symm hd]
  have us : u.slots = (releaseRing c s).slots := by
    have e := congrArg State.slots l3; exact e
  have ug : ∀ g : GroupId, { u.groups[g] with waiters := s.groups[g].waiters } = s.groups[g] := fun g => by
    have e : u.groups[g] = _ := l2 g
    rw [e]; split
    · rename_i x; obtain ⟨rfl, -⟩ := x; rfl
    · rfl
  have up : u.pulses = s.pulses := by have e := congrArg State.pulses l3; exact e
  refine ⟨?_, fun i k => ?_, ?_, fun g => ?_, fun g => ?_, ?_, fun d m hd hm => ?_, fun d hd => ?_⟩
  · rw [o1, g3 c uw, jc]
  · rw [o3]
    rcases g6 i with e | ⟨-, d, hd, n, e⟩
    · rw [e, us, releaseRing_get]; exact releasedState_place c k _
    · rw [e]
      intro x
      simp [ringPlace] at x
      exact uw (x.1 ▸ hd)
  · rw [o4]
    intro x
    exact uw (g2 ▸ List.mem_append_right _ x)
  · rw [o2]
    have e1 : (grant u).lists = u.lists := by have e := congrArg State.lists g1; exact e
    rw [e1]
    show (leaveList c j.group _).lists[g] = _
    rw [l1 g]
    split
    · rename_i e; subst e; rfl
    · rfl
  · have e1 : (grant u).groups = u.groups := by have e := congrArg State.groups g1; exact e
    have e2 := o.2 g
    rw [e1] at e2
    exact (congrArg (fun x : GroupState => { x with waiters := s.groups[g].waiters }) e2).trans (ug g)
  · rw [o5]
    have e1 : (grant u).pulses = u.pulses := by have e := congrArg State.pulses g1; exact e
    rw [e1, up]
  · have hu : ∃ x, u.jobs[d] = some { m with state := x } := by
      show ∃ x, (leaveList c j.group _).jobs[d] = _
      have base : (markEnded c st s).jobs[d] = some m := by
        show (modJob c _ s).jobs[d] = _
        rw [modJob_get_ne _ _ hd, hm]
      rcases l4 with ⟨e, -⟩ | ⟨x, -, -, -, -, e⟩
      · exact ⟨m.state, by rw [e]; exact base⟩
      · rw [e]
        by_cases hx : d = x
        · subst hx
          refine ⟨.waiting, ?_⟩
          show (modJob d _ _).jobs[d] = _
          rw [modJob_get_self]
          show Option.map _ (markEnded c st s).jobs[d] = _
          rw [base]; rfl
        · refine ⟨m.state, ?_⟩
          show (modJob x _ _).jobs[d] = _
          rw [modJob_get_ne _ _ hx]; exact base
    obtain ⟨x, hx⟩ := hu
    obtain ⟨y, hy⟩ := g4 d _ hx
    exact ⟨y, by rw [o1, hy]⟩
  · rw [o1]
    apply g5
    show (leaveList c j.group _).jobs[d] = _
    have base : (markEnded c st s).jobs[d] = none := by
      show (modJob c _ s).jobs[d] = _
      rw [modJob_get]; split
      · rename_i e; subst e; rw [hd]; rfl
      · exact hd
    rcases l4 with ⟨e, -⟩ | ⟨x, -, -, -, -, e⟩
    · rw [e]; exact base
    · rw [e]
      show (modJob x _ _).jobs[d] = _
      rw [modJob_get]
      split
      · rename_i e; subst e
        show Option.map _ (markEnded c st s).jobs[d] = none
        rw [base]; rfl
      · exact base

end Sys2Proof.Machine
end

