-- ==== Sys2Proof/Laws/Commands.lean ====
section
/-! SUPPORT. Laws/Commands.lean: what the Command Processor's shared operations do, one lemma for each: the answers of its reads, the
end of a command, take decisions, the operands of records, and the job a TAG names. -/

namespace Sys2Proof.Machine

/-! ## Reads and ends of commands (R113 to R116, R120) -/

theorem onRecord_taken {r : SubRing} {e : Nat} {s : State} (f : SubRing → State → State) (h : s.cp.state = .record r e)
    (k : s.clock.now ≤ e) : onRecord f s = f r s := by
  simp only [onRecord, h, if_pos k]

theorem onRecord_not_taken {s : State} (f : SubRing → State → State)
    (h : ∀ r e, s.cp.state = .record r e → ¬ s.clock.now ≤ e) : onRecord f s = s := by
  unfold onRecord
  split
  · exact if_neg (h _ _ (by assumption))
  all_goals rfl

theorem respond_eq (r : SubRing) (cmdId : Short) (status : Status) (value : Word) (s : State) :
    respond r cmdId status value s = { s with
      holding := s.holding ++ [.response cmdId status value]
      cp := { consumed r s.cp with reserved := false, state := if s.run then .reserving else .stopped } } := rfl

theorem issueTableRead_eq (r : SubRing) (address : Addr) (command : AuxCommand) (s : State) :
    issueTableRead r address command s = { s with
      link := s.link ++ [.memRead address (auxLength command)]
      cp := { s.cp with state := .auxiliary r (readExpiry s) command } } := rfl

theorem endParked_running {r : SubRing} {s : State} (h : s.run = true) :
    endParked r s = takeDecision { s with cp := { consumed r s.cp with state := .looking } } := by
  simp only [endParked, modCp, h, if_true]
  rfl

theorem endParked_stopped {r : SubRing} {s : State} (h : s.run = false) :
    endParked r s = { s with cp := { consumed r s.cp with state := .stopped } } := by
  simp only [endParked, modCp, h]
  rfl

/-! ## Take decisions (R109 to R112) -/

theorem holdsRecords_iff (r : RingRegs) : holdsRecords r = true ↔ r.size ≠ 0 ∧ r.producer ≠ r.consumer := decide_eq_true_iff
theorem producerBad_iff (r : RingRegs) : producerBad r = true ↔ r.size ≠ 0 ∧ r.size.toNat ≤ r.producer.toNat := decide_eq_true_iff

/-- R112's table. -/
theorem chooseRing_eq (cp : CommandProcessor) :
    chooseRing cp =
      if holdsRecords cp.priority = true ∧ (holdsRecords cp.normal = false ∨ cp.count < 4) then some .priority
      else if holdsRecords cp.normal = true then some .normal else none := by
  unfold chooseRing Config.maxPriorityRun
  cases holdsRecords cp.priority <;> cases holdsRecords cp.normal <;> simp
  split <;> split <;> first | rfl | omega

theorem takeDecision_other {s : State} (h : s.cp.state ≠ .looking) : takeDecision s = s := if_neg h

theorem takeDecision_priority_bad {s : State} (h : s.cp.state = .looking) (k : producerBad s.cp.priority = true) :
    takeDecision s = ringIndexFault .priority s := by
  simp only [takeDecision, if_pos h, if_pos k]

theorem takeDecision_normal_bad {s : State} (h : s.cp.state = .looking) (k : producerBad s.cp.priority = false)
    (m : producerBad s.cp.normal = true) : takeDecision s = ringIndexFault .normal s := by
  simp [takeDecision, h, k, m]

theorem takeDecision_none {s : State} (k : producerBad s.cp.priority = false) (m : producerBad s.cp.normal = false)
    (n : chooseRing s.cp = none) : takeDecision s = s := by
  unfold takeDecision
  split
  · simp [k, m, n]
  · rfl

theorem takeDecision_some {s : State} {r : SubRing} (h : s.cp.state = .looking) (k : producerBad s.cp.priority = false)
    (m : producerBad s.cp.normal = false) (n : chooseRing s.cp = some r) : takeDecision s = issueRecordRead r s := by
  simp [takeDecision, h, k, m, n]

theorem issueRecordRead_eq (r : SubRing) (s : State) :
    issueRecordRead r s = { s with
      link := s.link ++ [.memRead (recordAddress (ringRegs s.cp r)) 64]
      cp := { s.cp with state := .record r (readExpiry s) } } := rfl

/-! ## Operands -/

theorem targetGroup_some {target : Word} {g : GroupId} (h : target.toNat = g.val) : targetGroup target = some g := by
  have k : target.toNat < 4 := h ▸ g.isLt
  simp only [targetGroup, dif_pos k]
  exact congrArg some (Fin.ext h)

theorem targetGroup_none {target : Word} (h : 3 < target.toNat) : targetGroup target = none := dif_neg (by omega)

theorem byteGroup_some {b : Byte} {g : GroupId} (h : b.toNat = g.val) : byteGroup b = some g := by
  have k : b.toNat < 4 := h ▸ g.isLt
  simp only [byteGroup, dif_pos k]
  exact congrArg some (Fin.ext h)

theorem byteGroup_none {b : Byte} (h : 3 < b.toNat) : byteGroup b = none := dif_neg (by omega)

theorem byteGroup_eq_some {b : Byte} {g : GroupId} (h : byteGroup b = some g) : b.toNat = g.val := by
  unfold byteGroup at h
  split at h
  · exact congrArg Fin.val (Option.some.inj h)
  · cases h

theorem byteProfile_some {b : Byte} {p : ProfileId} (h : b.toNat = p.val) : byteProfile b = some p := by
  have k : b.toNat < 8 := h ▸ p.isLt
  simp only [byteProfile, dif_pos k]
  exact congrArg some (Fin.ext h)

theorem byteProfile_none {b : Byte} (h : 7 < b.toNat) : byteProfile b = none := dif_neg (by omega)

theorem aligned4_iff (a : Addr) : aligned4 a = true ↔ a.toNat % 4 = 0 := decide_eq_true_iff

theorem inSpan_iff (f : GroupFields) (lane : Nat) :
    inSpan f lane = true ↔ f.firstLane.toNat ≤ lane ∧ lane < f.firstLane.toNat + f.laneCount.toNat := decide_eq_true_iff

theorem hasSource_follow_iff (f : GroupFields) : hasSource f .follow = true ↔ f.laneCount ≠ 0 ∧ f.source = 2 := by
  have k : byteSource f.source = some .follow ↔ f.source = 2 := by
    revert f; intro f; generalize f.source = b; revert b; decide +kernel
  simp [hasSource, configured, k]

theorem hasSource_external_iff (f : GroupFields) : hasSource f .external = true ↔ f.laneCount ≠ 0 ∧ f.source = 1 := by
  have k : byteSource f.source = some .external ↔ f.source = 1 := by
    generalize f.source = b; revert b; decide +kernel
  simp [hasSource, configured, k]

theorem hasSource_internal_iff (f : GroupFields) : hasSource f .internal = true ↔ f.laneCount ≠ 0 ∧ f.source = 0 := by
  have k : byteSource f.source = some .internal ↔ f.source = 0 := by
    generalize f.source = b; revert b; decide +kernel
  simp [hasSource, configured, k]

theorem followsDirect_iff (configs : Vector GroupFields 4) (f l : GroupId) :
    followsDirect configs f l = true ↔
      configs[f].laneCount ≠ 0 ∧ configs[f].source = 2 ∧ configs[f].leader.toNat = l.val := by
  rw [followsDirect, Bool.and_eq_true, hasSource_follow_iff, decide_eq_true_iff, and_assoc]

/-! ## Contexts (R2, R3) -/

/-- The lowest context that passes a test. -/
theorem find_context {p : CtxId → Bool} {c : CtxId} (h : p c = true) (k : ∀ d : CtxId, d < c → p d = false) :
    (List.finRange 16).find? p = some c := by
  obtain ⟨d, hd⟩ : ∃ d, (List.finRange 16).find? p = some d := by
    cases e : (List.finRange 16).find? p with
    | none => exact absurd h (by simpa using List.find?_eq_none.mp e c (List.mem_finRange c))
    | some d => exact ⟨d, rfl⟩
  have hp := List.find?_some hd
  obtain ⟨-, l, r, e, n⟩ := List.find?_eq_some_iff_append.mp hd
  rcases lt_trichotomy d c with lt | rfl | gt
  · rw [k d lt] at hp; cases hp
  · exact hd
  · exfalso
    have hs : (List.finRange 16).Pairwise (· < ·) := List.pairwise_lt_finRange 16
    have hm : c ∈ l ++ d :: r := e ▸ List.mem_finRange c
    rw [e, List.pairwise_append] at hs
    rcases List.mem_append.mp hm with m | m
    · have := n c m; simp [h] at this
    · rcases List.mem_cons.mp m with rfl | m
      · exact lt_irrefl _ gt
      · exact lt_asymm gt ((List.pairwise_cons.mp hs.2.1).1 c m)

theorem findTag_some {s : State} {tag : Word} {c : CtxId} {j : Job} (h : s.jobs[c] = some j) (t : j.tag = tag)
    (k : ∀ (d : CtxId) x, d < c → s.jobs[d] = some x → x.tag ≠ tag) : findTag s tag = some c := by
  refine find_context (by simp [h, t]) fun d hd => ?_
  cases e : s.jobs[d] with
  | none => rfl
  | some x => simpa using k d x hd e

theorem findTag_none {s : State} {tag : Word} (h : ∀ (c : CtxId) x, s.jobs[c] = some x → x.tag ≠ tag) : findTag s tag = none := by
  refine List.find?_eq_none.mpr fun c _ => ?_
  cases e : s.jobs[c] with
  | none => simp
  | some x => simpa using h c x e

theorem freeContext_some {s : State} {c : CtxId} (h : s.jobs[c] = none) (k : ∀ d : CtxId, d < c → s.jobs[d] ≠ none) :
    freeContext s = some c :=
  find_context (by simp [h]) fun d hd => by simpa using Option.isSome_iff_ne_none.mpr (k d hd)

theorem freeContext_none {s : State} (h : ∀ c : CtxId, s.jobs[c] ≠ none) : freeContext s = none :=
  List.find?_eq_none.mpr fun c _ => by simpa [Option.isNone_iff_eq_none] using h c

theorem notEnded_iff (j : Job) : notEnded j = true ↔ ∀ st, j.state ≠ .ended st := by
  unfold notEnded endStatusOf
  cases j.state <;> simp

theorem withJob_none {r : SubRing} {id : Short} {tag : Word} {s : State} (f : CtxId → Job → State → State)
    (h : findTag s tag = none) : withJob r id tag f s = respond r id .notFound 0 s := by
  simp only [withJob, h]

theorem withJob_live {r : SubRing} {id : Short} {tag : Word} {s : State} {c : CtxId} {j : Job} (f : CtxId → Job → State → State)
    (h : findTag s tag = some c) (k : s.jobs[c] = some j) (m : notEnded j = true) : withJob r id tag f s = f c j s := by
  simp only [withJob, h, k, m, if_true]

theorem withJob_ended {r : SubRing} {id : Short} {tag : Word} {s : State} {c : CtxId} {j : Job} (f : CtxId → Job → State → State)
    (h : findTag s tag = some c) (k : s.jobs[c] = some j) (m : notEnded j = false) :
    withJob r id tag f s = respond r id .jobEnded 0 s := by
  simp [withJob, h, k, m]

/-! ## Slots and pulses -/

theorem slotAt_some {s : State} {c : CtxId} {k : Nat} {i : SlotId} (h : slotAt s c k = some i) :
    ringPlace s.slots[i].state = some (c, k) := by simpa using List.find?_some h

theorem slotAt_none {s : State} {c : CtxId} {k : Nat} (h : slotAt s c k = none) (i : SlotId) :
    ringPlace s.slots[i].state ≠ some (c, k) := by simpa using List.find?_eq_none.mp h i (List.mem_finRange i)

theorem outstanding_zero_iff (s : State) (g : GroupId) :
    outstanding s g = 0 ↔ ∀ (lane : LaneId) (d : CtxId), pulseJob s.pulses[lane] ≠ some (g, d) := by
  unfold outstanding
  rw [List.length_eq_zero_iff, List.filter_eq_nil_iff]
  constructor
  · intro h lane d e
    have m : s.pulses[lane] ∈ s.pulses.toList := by
      rw [Vector.mem_toList_iff]; exact Vector.getElem_mem lane.isLt
    exact h _ m (by rw [e]; simp)
  · intro h p hp
    obtain ⟨i, hi, rfl⟩ := Vector.mem_iff_getElem.mp (Vector.mem_toList_iff.mp hp)
    cases e : pulseJob s.pulses[i] with
    | none => simp
    | some x =>
      obtain ⟨a, b⟩ := x
      have := h ⟨i, hi⟩ b
      simp only [Option.any_some, decide_eq_true_eq]
      rintro rfl
      exact this e

end Sys2Proof.Machine
end

