-- ==== Sys2Proof/Laws/Events.lean ====
section
/-! SUPPORT. Laws/Events.lean: what a delivered line event leaves of every group: clock, hold state, trigger side, monitor and all
counters but IDLE_EVENTS; and what a line event with its followers does to the groups. -/

namespace Sys2Proof.Machine

/-- A group's record but for its latched profile, its drain waiters and IDLE_EVENTS is the same. -/
def GroupKept (x y : GroupState) : Prop :=
  y.clock = x.clock ∧ y.hold = x.hold ∧ y.lastAccepted = x.lastAccepted ∧ y.monitor = x.monitor ∧
  y.counters.lineEvents = x.counters.lineEvents ∧ y.counters.heldEvents = x.counters.heldEvents ∧
  y.counters.trigAccepted = x.counters.trigAccepted ∧ y.counters.trigBusy = x.counters.trigBusy ∧
  y.counters.trigFast = x.counters.trigFast

theorem GroupKept.refl (x : GroupState) : GroupKept x x := ⟨rfl, rfl, rfl, rfl, rfl, rfl, rfl, rfl, rfl⟩

theorem GroupKept.trans {x y z : GroupState} (h : GroupKept x y) (k : GroupKept y z) : GroupKept x z := by
  obtain ⟨a, b, c, d, e, f, g, i, j⟩ := h
  obtain ⟨a', b', c', d', e', f', g', i', j'⟩ := k
  exact ⟨a'.trans a, b'.trans b, c'.trans c, d'.trans d, e'.trans e, f'.trans f, g'.trans g, i'.trans i, j'.trans j⟩

/-- Every group is kept. -/
def GroupsKept (s t : State) : Prop := ∀ g : GroupId, GroupKept s.groups[g] t.groups[g]

theorem GroupsKept.refl (s : State) : GroupsKept s s := fun _ => .refl _
theorem GroupsKept.trans {s t u : State} (h : GroupsKept s t) (k : GroupsKept t u) : GroupsKept s u :=
  fun g => (h g).trans (k g)
theorem GroupsKept.of_eq {s t : State} (h : t.groups = s.groups) : GroupsKept s t := fun g => by rw [h]; exact .refl _

/-- A group whose record changes in its waiters alone is kept. -/
theorem GroupsKept.of_waiters {s t : State} (h : ∀ g : GroupId, { t.groups[g] with waiters := s.groups[g].waiters } = s.groups[g]) :
    GroupsKept s t := fun g => by
  rw [← h g]; exact .refl _

theorem modGroup_kept (g : GroupId) (f : GroupState → GroupState) (h : ∀ x, GroupKept x (f x)) (s : State) :
    GroupsKept s (modGroup g f s) := fun k => by
  rw [modGroup_get]; split
  · rename_i e; subst e; exact h _
  · exact .refl _

theorem offerNotice_groups (c : CtxId) (r : CompRecord) (s : State) : (offerNotice c r s).groups = s.groups := by
  unfold offerNotice; split <;> rfl

theorem retireHead_groups (c : CtxId) (e : Extent) (es : List Extent) (s : State) :
    (retireHead c e es s).groups = s.groups := by
  unfold retireHead; split
  · rfl
  · split
    · rw [offerNotice_groups]; rfl
    · rfl

theorem retireFrom_groups (c : CtxId) (es : List Extent) (s : State) : (retireFrom c es s).groups = s.groups := by
  induction es generalizing s with
  | nil => rfl
  | cons e es ih =>
    unfold retireFrom; split
    · rw [ih, retireHead_groups]
    · rfl

theorem settleLine_groups (c : CtxId) (n : Nat) (s : State) : (settleLine c n s).groups = s.groups := by
  unfold settleLine; split
  · rfl
  · rw [retireFrom_groups]; rfl

theorem endJob_kept (c : CtxId) (st : EndStatus) (s : State) : GroupsKept s (endJob c st s) := by
  cases h : s.jobs[c] with
  | none => simp only [endJob, h]; exact .refl s
  | some j => exact .of_waiters (endJob_spec st h).2.2.2.2.1

theorem latchProfile_kept (g : GroupId) (p : ProfileId) (s : State) : GroupsKept s (latchProfile g p s) := by
  unfold latchProfile; split
  · exact .refl s
  · refine modGroup_kept _ _ ?_ s
    exact fun _ => ⟨rfl, rfl, rfl, rfl, rfl, rfl, rfl, rfl, rfl⟩

theorem markTest_groups (c : CtxId) (s : State) : (markTest c s).groups = s.groups := by
  unfold markTest; split
  · rfl
  · split
    · exact offerNotice_groups c _ s
    · rfl

theorem lastLineTest_kept (c : CtxId) (n : Nat) (s : State) : GroupsKept s (lastLineTest c n s) := by
  unfold lastLineTest; split
  · exact .refl s
  · split
    · split
      · exact endJob_kept c _ s
      · exact .of_eq rfl
    · exact .refl s

theorem fireLine_kept (g : GroupId) (c : CtxId) (j : Job) (i : SlotId) (s : State) : GroupsKept s (fireLine g c j i s) := by
  unfold fireLine
  refine GroupsKept.trans ?_ (lastLineTest_kept c _ _)
  refine GroupsKept.trans ?_ (GroupsKept.of_eq (markTest_groups c _))
  exact GroupsKept.trans (t := setSlot i _ s) (.of_eq rfl) ((latchProfile_kept g _ _).trans (.of_eq rfl))

theorem skipSlot_groups (c : CtxId) (n : Nat) (i : Option SlotId) (s : State) : (skipSlot c n i s).groups = s.groups := by
  have h : (settleLine c n (modJob c (fun j => { j with cursor := max j.cursor (n + 1) }) s)).groups = s.groups := by
    rw [settleLine_groups]; rfl
  unfold skipSlot; split
  · exact h
  · split <;> first | exact h | rfl

theorem skipEndTest_kept (c : CtxId) (s : State) : GroupsKept s (skipEndTest c s) := by
  unfold skipEndTest; split
  · exact .refl s
  · split
    · exact endJob_kept c _ s
    · exact .refl s

theorem underrun_kept (c : CtxId) (j : Job) (i : Option SlotId) (s : State) : GroupsKept s (underrun c j i s) := by
  unfold underrun; split
  · split
    · refine GroupsKept.trans ?_ (skipEndTest_kept c _)
      exact .of_eq (skipSlot_groups c _ i s)
    · exact .of_eq rfl
  · exact .of_eq rfl
  · exact endJob_kept c _ s

theorem runLine_kept (g : GroupId) (c : CtxId) (j : Job) (s : State) : GroupsKept s (runLine g c j s) := by
  unfold runLine; split
  · exact underrun_kept c j _ s
  · split
    · exact fireLine_kept g c j _ s
    · exact underrun_kept c j _ s

theorem actOnFront_kept (g : GroupId) (s : State) : GroupsKept s (actOnFront g s) := by
  unfold actOnFront; split
  · exact .refl s
  · rename_i c j _
    have h : GroupsKept s (releaseFiring c s) := .of_eq rfl
    split <;> first
      | exact h.trans (runLine_kept g c j _)
      | exact h.trans (endJob_kept c _ _)
      | exact .refl s

theorem countIdle_kept (g : GroupId) (s : State) : GroupsKept s (countIdle g s) := by
  refine modGroup_kept _ _ ?_ s
  exact fun _ => ⟨rfl, rfl, rfl, rfl, rfl, rfl, rfl, rfl, rfl⟩

/-- A delivered line event keeps every group but for latch, waiters and IDLE_EVENTS. -/
theorem deliver_kept (g : GroupId) (s : State) : GroupsKept s (deliver g s) := by
  have h : GroupsKept s (actOnFront g (cutCounted g s)) := GroupsKept.trans (t := cutCounted g s) (.of_eq rfl) (actOnFront_kept g _)
  unfold deliver; extract_lets t
  split
  · rename_i c j _
    exact h.trans (GroupsKept.trans (t := setJobState c .running t) (.of_eq rfl) (runLine_kept g c _ _))
  · split
    · exact h
    · exact h.trans (countIdle_kept g t)

/-- A group's own line event: LINE_EVENTS grows by one; a kept one counts in HELD_EVENTS_G and makes PENDING HELD; every other
group is kept. -/
theorem ownEvent_groups (g : GroupId) (s : State) :
    (∀ h : GroupId, h ≠ g → GroupKept s.groups[h] (ownEvent g s).groups[h]) ∧
    (s.groups[g].hold = .none →
      GroupKept { s.groups[g] with
        counters := { s.groups[g].counters with lineEvents := satInc s.groups[g].counters.lineEvents } }
        (ownEvent g s).groups[g]) ∧
    (s.groups[g].hold ≠ .none →
      (ownEvent g s).groups[g] = { s.groups[g] with
        hold := .held
        counters := { s.groups[g].counters with
          lineEvents := satInc s.groups[g].counters.lineEvents
          heldEvents := satInc s.groups[g].counters.heldEvents } }) := by
  unfold ownEvent; extract_lets t
  have tg : t.groups[g] = { s.groups[g] with
      counters := { s.groups[g].counters with lineEvents := satInc s.groups[g].counters.lineEvents } } := by
    show (modGroup g _ s).groups[g] = _
    rw [modGroup_get_self]
  have th : ∀ h : GroupId, h ≠ g → t.groups[h] = s.groups[h] := fun h n => modGroup_get_ne _ s n
  rw [tg]
  split <;> rename_i e <;> simp only at e
  · exact ⟨fun h n => th h n ▸ deliver_kept g t h, fun _ => tg ▸ deliver_kept g t g, fun n => absurd e n⟩
  · refine ⟨fun h n => ?_, fun n => absurd n (by rw [e]; simp), fun _ => ?_⟩
    · show GroupKept _ (modGroup g _ (modGroup g _ t)).groups[h]
      rw [modGroup_get_ne _ _ n, modGroup_get_ne _ _ n, th h n]; exact .refl _
    · show (modGroup g _ (modGroup g _ t)).groups[g] = _
      rw [modGroup_get_self, modGroup_get_self, tg]
  · refine ⟨fun h n => ?_, fun n => absurd n (by rw [e]; simp), fun _ => ?_⟩
    · show GroupKept _ (modGroup g _ t).groups[h]
      rw [modGroup_get_ne _ _ n, th h n]; exact .refl _
    · show (modGroup g _ t).groups[g] = _
      rw [modGroup_get_self, tg, e]

end Sys2Proof.Machine
end

