-- ==== Sys2Proof/Laws/PerInstr.lean ====
section
/-! SUPPORT. Laws/PerInstr.lean: for each command, the record it has, if it has one, is 64 bytes long (10.1). -/

namespace Sys2Proof.Laws

/-- A record of the command is 64 bytes long. -/
def RecordLength.Statement (i : Instr) : Prop := ∀ bytes, encodeRecord i = some bytes → bytes.length = 64

@[simp] theorem addrBytes_length (a : Addr) : (addrBytes a).length = 8 := rfl

@[simp] theorem groupFieldBytes_length (f : GroupFields) : (groupFieldBytes f).length = 20 := rfl

@[simp] theorem startFieldBytes_length (f : StartFields) : (startFieldBytes f).length = 16 := rfl

/-- A header and at most 56 parameter bytes make a record of 64 bytes. -/
theorem recordBytes_length (opcode flags : Byte) (cmdId : Short) (target : Word) (params : List Byte) (h : params.length ≤ 56) :
    (recordBytes opcode flags cmdId target params).length = 64 := by
  simp only [recordBytes, shortBytes, wordBytes, List.length_append, List.length_cons, List.length_nil, List.length_replicate]
  omega

theorem RecordLength.deviceReset : RecordLength.Statement (.deviceReset) := by
  intro bytes h
  cases h

theorem RecordLength.deviceResetComplete : RecordLength.Statement (.deviceResetComplete) := by
  intro bytes h
  cases h

theorem RecordLength.run (value : Bool) : RecordLength.Statement (.run value) := by
  intro bytes h
  cases h

theorem RecordLength.engineReset (value : Bool) : RecordLength.Statement (.engineReset value) := by
  intro bytes h
  cases h

theorem RecordLength.fetchLimit (value : Byte) : RecordLength.Statement (.fetchLimit value) := by
  intro bytes h
  cases h

theorem RecordLength.tickDivider (value : BitVec 5) : RecordLength.Statement (.tickDivider value) := by
  intro bytes h
  cases h

theorem RecordLength.faultClear (kinds : FaultKinds) : RecordLength.Statement (.faultClear kinds) := by
  intro bytes h
  cases h

theorem RecordLength.submissionBase (ring : SubRing) (half : WordHalf) (value : Word) : RecordLength.Statement (.submissionBase ring half value) := by
  intro bytes h
  cases h

theorem RecordLength.submissionSize (ring : SubRing) (value : Short) : RecordLength.Statement (.submissionSize ring value) := by
  intro bytes h
  cases h

theorem RecordLength.producer (ring : SubRing) (value : Short) : RecordLength.Statement (.producer ring value) := by
  intro bytes h
  cases h

theorem RecordLength.completionBase (half : WordHalf) (value : Word) : RecordLength.Statement (.completionBase half value) := by
  intro bytes h
  cases h

theorem RecordLength.completionSize (value : Short) : RecordLength.Statement (.completionSize value) := by
  intro bytes h
  cases h

theorem RecordLength.consumer (value : Short) : RecordLength.Statement (.consumer value) := by
  intro bytes h
  cases h

theorem RecordLength.intMod (threshold : Byte) (age : Short) : RecordLength.Statement (.intMod threshold age) := by
  intro bytes h
  cases h

theorem RecordLength.registerWrite (register : PlainRegister) (value : Word) : RecordLength.Statement (.registerWrite register value) := by
  intro bytes h
  cases h

theorem RecordLength.trigger (group : GroupId) (edge : Edge) (tick : Nat) : RecordLength.Statement (.trigger group edge tick) := by
  intro bytes h
  cases h

theorem RecordLength.periodEnd (group : GroupId) : RecordLength.Statement (.periodEnd group) := by
  intro bytes h
  cases h

theorem RecordLength.countdownExpiry (group : GroupId) : RecordLength.Statement (.countdownExpiry group) := by
  intro bytes h
  cases h

theorem RecordLength.pulseStart (lane : LaneId) : RecordLength.Statement (.pulseStart lane) := by
  intro bytes h
  cases h

theorem RecordLength.pulseEnd (lane : LaneId) : RecordLength.Statement (.pulseEnd lane) := by
  intro bytes h
  cases h

theorem RecordLength.slotGrant : RecordLength.Statement (.slotGrant) := by
  intro bytes h
  cases h

theorem RecordLength.fetchIssue : RecordLength.Statement (.fetchIssue) := by
  intro bytes h
  cases h

theorem RecordLength.fetchDataAnswer (entry : EntryId) (data : List Byte) : RecordLength.Statement (.fetchDataAnswer entry data) := by
  intro bytes h
  cases h

theorem RecordLength.fetchErrorAnswer (entry : EntryId) : RecordLength.Statement (.fetchErrorAnswer entry) := by
  intro bytes h
  cases h

theorem RecordLength.fetchExpiry (entry : EntryId) : RecordLength.Statement (.fetchExpiry entry) := by
  intro bytes h
  cases h

theorem RecordLength.lateAnswer : RecordLength.Statement (.lateAnswer) := by
  intro bytes h
  cases h

theorem RecordLength.reservation : RecordLength.Statement (.reservation) := by
  intro bytes h
  cases h

theorem RecordLength.takeDecision : RecordLength.Statement (.takeDecision) := by
  intro bytes h
  cases h

theorem RecordLength.recordReadError : RecordLength.Statement (.recordReadError) := by
  intro bytes h
  cases h

theorem RecordLength.recordReadExpiry : RecordLength.Statement (.recordReadExpiry) := by
  intro bytes h
  cases h

theorem RecordLength.nop (cmdId : Short) : RecordLength.Statement (.nop cmdId) := by
  intro bytes h
  cases h
  exact recordBytes_length _ _ _ _ _ (by simp)

theorem RecordLength.unknownOpcode (opcode : Byte) (cmdId : Short) : RecordLength.Statement (.unknownOpcode opcode cmdId) := by
  intro bytes h
  cases h
  exact recordBytes_length _ _ _ _ _ (by simp)

theorem RecordLength.configGroup (cmdId : Short) (target : Word) (fields : GroupFields) : RecordLength.Statement (.configGroup cmdId target fields) := by
  intro bytes h
  cases h
  exact recordBytes_length _ _ _ _ _ (by simp)

theorem RecordLength.configLanes (cmdId : Short) (firstLane : Byte) (count : Byte) (address : Addr) : RecordLength.Statement (.configLanes cmdId firstLane count address) := by
  intro bytes h
  cases h
  exact recordBytes_length _ _ _ _ _ (by simp)

theorem RecordLength.loadProfile (cmdId : Short) (profile : Byte) (address : Addr) : RecordLength.Statement (.loadProfile cmdId profile address) := by
  intro bytes h
  cases h
  exact recordBytes_length _ _ _ _ _ (by simp)

theorem RecordLength.startJob (cmdId : Short) (tag : Word) (fields : StartFields) : RecordLength.Statement (.startJob cmdId tag fields) := by
  intro bytes h
  cases h
  exact recordBytes_length _ _ _ _ _ (by simp)

theorem RecordLength.appendLines (cmdId : Short) (tag : Word) (extentCount : Byte) (listAddress : Addr) : RecordLength.Statement (.appendLines cmdId tag extentCount listAddress) := by
  intro bytes h
  cases h
  exact recordBytes_length _ _ _ _ _ (by simp)

theorem RecordLength.closeJob (cmdId : Short) (tag : Word) : RecordLength.Statement (.closeJob cmdId tag) := by
  intro bytes h
  cases h
  exact recordBytes_length _ _ _ _ _ (by simp)

theorem RecordLength.abortJob (cmdId : Short) (tag : Word) : RecordLength.Statement (.abortJob cmdId tag) := by
  intro bytes h
  cases h
  exact recordBytes_length _ _ _ _ _ (by simp)

theorem RecordLength.holdGroup (cmdId : Short) (target : Word) : RecordLength.Statement (.holdGroup cmdId target) := by
  intro bytes h
  cases h
  exact recordBytes_length _ _ _ _ _ (by simp)

theorem RecordLength.releaseGroup (cmdId : Short) (target : Word) : RecordLength.Statement (.releaseGroup cmdId target) := by
  intro bytes h
  cases h
  exact recordBytes_length _ _ _ _ _ (by simp)

theorem RecordLength.drainGroup (cmdId : Short) (target : Word) : RecordLength.Statement (.drainGroup cmdId target) := by
  intro bytes h
  cases h
  exact recordBytes_length _ _ _ _ _ (by simp)

theorem RecordLength.reportGroup (cmdId : Short) (target : Word) (clear : Bool) (address : Addr) : RecordLength.Statement (.reportGroup cmdId target clear address) := by
  intro bytes h
  cases h
  exact recordBytes_length _ _ _ _ _ (by simp)

theorem RecordLength.auxiliaryReadData (data : List Byte) : RecordLength.Statement (.auxiliaryReadData data) := by
  intro bytes h
  cases h

theorem RecordLength.auxiliaryReadError : RecordLength.Statement (.auxiliaryReadError) := by
  intro bytes h
  cases h

theorem RecordLength.auxiliaryReadExpiry : RecordLength.Statement (.auxiliaryReadExpiry) := by
  intro bytes h
  cases h

theorem RecordLength.voidReadAnswer : RecordLength.Statement (.voidReadAnswer) := by
  intro bytes h
  cases h

theorem RecordLength.jobEndPlacement : RecordLength.Statement (.jobEndPlacement) := by
  intro bytes h
  cases h

theorem RecordLength.drainResponse : RecordLength.Statement (.drainResponse) := by
  intro bytes h
  cases h

theorem RecordLength.completionWrite : RecordLength.Statement (.completionWrite) := by
  intro bytes h
  cases h

theorem RecordLength.ageExpiry : RecordLength.Statement (.ageExpiry) := by
  intro bytes h
  cases h

end Sys2Proof.Laws
end

