-- ==== Sys2Proof/Tests/Slice0.lean ====
section
/-! SUPPORT. Tests/Slice0.lean: the checks of `wellFormed`, records read from bytes written out by hand from 10.1, one step for each
command on the rows of the worked examples, and a witness for the hypotheses of every statement that has some. -/

namespace Sys2Proof.Tests

open Sys2Proof.Machine Sys2Proof.Claims

set_option Elab.async false

/-! ## Ill-formed terms are refused by `wellFormed` -/

theorem test_wellFormed_refuses_named_opcode : wellFormed (.unknownOpcode 0x0B 1) = false := by decide
theorem test_wellFormed_takes_unnamed_opcode : wellFormed (.unknownOpcode 0x0C 1) = true := by decide
theorem test_wellFormed_refuses_empty_line : wellFormed (.fetchDataAnswer 0 []) = false := by decide
theorem test_wellFormed_refuses_long_line : wellFormed (.fetchDataAnswer 0 (List.replicate 33 0)) = false := by decide +kernel
theorem test_wellFormed_takes_longest_line : wellFormed (.fetchDataAnswer 0 (List.replicate 32 0)) = true := by decide +kernel
theorem test_wellFormed_refuses_empty_table : wellFormed (.auxiliaryReadData []) = false := by decide
theorem test_wellFormed_refuses_ragged_table : wellFormed (.auxiliaryReadData (List.replicate 6 0)) = false := by decide
theorem test_wellFormed_refuses_long_table : wellFormed (.auxiliaryReadData (List.replicate 260 0)) = false := by decide +kernel

/-! ## Records (10.1), byte by byte -/

/-- 00h NOP, CMD_ID 1234h. -/
theorem test_record_nop :
    decodeRecord ([0x00, 0, 0x34, 0x12, 0, 0, 0, 0] ++ List.replicate 56 0xFF) = some (.nop 0x1234) := by decide +kernel

/-- 0Ch names no command. -/
theorem test_record_unknown :
    decodeRecord ([0x0C, 0, 0x34, 0x12, 0, 0, 0, 0] ++ List.replicate 56 0) = some (.unknownOpcode 0x0C 0x1234) := by
  decide +kernel

/-- 01h CONFIG_GROUP of G2: FIRST_LANE 8, LANE_COUNT 4, EXTERNAL, falling, DELAY 300, MIN_INTERVAL 1000. -/
theorem test_record_configGroup :
    decodeRecord ([0x01, 0, 7, 0, 2, 0, 0, 0] ++ [8, 4, 1, 1, 3, 0, 0, 0] ++ [0, 1, 0, 0] ++ [0x2C, 0x01, 0, 0] ++ [0xE8, 0x03, 0, 0]
        ++ List.replicate 36 0)
      = some (.configGroup 7 2 { firstLane := 8, laneCount := 4, source := 1, edge := 1, leader := 3, period := 256, delay := 300,
                                 minInterval := 1000 }) := by decide +kernel

/-- 04h START_JOB, OPEN, TAG 5A00h, G1, P2, HOLD, DEPTH 4, ARM_LEVEL 2, two extents at 8765432100000010h, MARK_EVERY 258. -/
theorem test_record_startJob :
    decodeRecord ([0x04, 1, 9, 0, 0x00, 0x5A, 0, 0] ++ [1, 2, 1, 4, 2, 2, 0x02, 0x01] ++ [0x10, 0, 0, 0, 0x21, 0x43, 0x65, 0x87]
        ++ List.replicate 40 0)
      = some (.startJob 9 0x5A00 { isOpen := true, group := 1, profile := 2, policy := 1, depth := 4, armLevel := 2,
                                   extentCount := 2, markEvery := 258, listAddress := 0x8765432100000010 }) := by decide +kernel

/-- 0Bh REPORT_GROUP of G3 with CLEAR at 40h; another length is no record. -/
theorem test_record_reportGroup :
    decodeRecord ([0x0B, 1, 5, 0, 3, 0, 0, 0] ++ List.replicate 8 0 ++ [0x40, 0, 0, 0, 0, 0, 0, 0] ++ List.replicate 40 0)
        = some (.reportGroup 5 3 true 0x40) ∧
      decodeRecord (List.replicate 63 0) = none := by decide +kernel

/-- 9.7: a write of CONTROL with RUN 1, ENGINE_RESET 1, FETCH_LIMIT 125 and TICK_DIVIDER 4; its RUN part is ignored. -/
theorem test_controlWrite_fields : windowWrite 0x04 0x00047D03 = [.fetchLimit 125, .tickDivider 4, .engineReset true] := by
  decide +kernel

/-- 9.3: STATUS with two live contexts after RUN 0 with a command in progress: RUNNING stays 1, and CONTROL reads RUN 0. -/
theorem test_status_reads :
    readWindow { State.reset with
        cp := { State.reset.cp with state := .record .normal 5 }
        jobs := Vector.ofFn fun c => if c.val < 2 then some {
          tag := 0, group := 0, profile := 0, policy := .skip, depth := 2, armLevel := 1, markEvery := 0, isOpen := true, extents := [],
          retired := 0, supplied := 0, cursor := 0, firePos := 0, linesFired := 0, linesSkipped := 0, heldEvents := 0, clipped := 0,
          noticesLost := 0, state := .ended .ended } else none } 0x08 = some 0x21 := by decide +kernel

/-- The opcode table gives no row bits. -/
theorem test_table_has_no_bits : decodeTableWord 32 0 = none := rfl

/-! ## Small states -/

/-- The state after a command that goes on. -/
def after (c : Instr) (s : State) : State :=
  match exec c s with
  | .next t => t
  | .fault _ => s
  | .refused _ => s

/-- A group of four lanes from a first lane, with PERIOD 1000. -/
def fields (source first : Byte) : GroupFields :=
  { firstLane := first, laneCount := 4, source := source, edge := 0, leader := 0, period := 1000, delay := 0, minInterval := 0 }

/-- A group's configuration and clock. -/
def withConfig (g : GroupId) (f : GroupFields) (k : LineClock) (s : State) : State :=
  { s with configs := s.configs.set g f, groups := s.groups.set g { s.groups[g] with clock := k } }

/-- An extent of so many lines of stride 4 at 4096. -/
def extent (first lines settled : Nat) (notify : Bool) : Extent :=
  { base := 4096, lines := BitVec.ofNat 16 lines, stride := 4, notify := notify, firstLine := first, settled := settled }

/-- The job of 1.11: TAG 5A00h, DEPTH 4, ARM_LEVEL 2, MARK_EVERY 2, SKIP, closed, three lines. -/
def aJob (g : GroupId) (st : JobState) : Job :=
  { tag := 0x5A00, group := g, profile := 0, policy := .skip, depth := 4, armLevel := 2, markEvery := 2, isOpen := false,
    extents := [extent 0 3 0 false], retired := 0, supplied := 3, cursor := 0, firePos := 0, linesFired := 0, linesSkipped := 0,
    heldEvents := 0, clipped := 0, noticesLost := 0, state := st }

/-- A job in a context, at the back of its group's list. -/
def withJobIn (c : CtxId) (j : Job) (s : State) : State :=
  { s with jobs := s.jobs.set c (some j), lists := s.lists.set j.group (s.lists[j.group] ++ [c]) }

/-- Slots in given states. -/
def withSlots (l : List (SlotId × SlotState)) (s : State) : State :=
  l.foldl (fun t x => { t with slots := t.slots.set x.1 { t.slots[x.1] with state := x.2 } }) s

/-- A busy tracker entry. -/
def withRead (e : EntryId) (slot : SlotId) (line : Nat) (s : State) : State :=
  { s with tracker := s.tracker.set e (some { slot := slot, line := line, expiry := 1000, isVoid := false }) }

/-- The Command Processor of 6.9, with RUN 1 and a reservation, in a state. -/
def withCp (st : CpState) (s : State) : State :=
  { s with
    run := true
    cp := { s.cp with state := st, reserved := true, normal := { base := 0x8000, size := 32, producer := 1, consumer := 30 } } }

/-- A record of the normal ring is being read. -/
def taking (s : State) : State := withCp (.record .normal 1000) s

/-- A table of a command is being read. -/
def reading (a : AuxCommand) (s : State) : State := withCp (.auxiliary .normal 1000 a) s

/-- Status and value of the response at the back of the holding list. -/
def lastResponse (s : State) : Option (Status × Word) :=
  match s.holding.getLast? with
  | some (.response _ st v) => some (st, v)
  | some (.jobEnd _ _ _ _ _ _ _ _) | some (.mark _ _) | some (.extentDone _ _) | none => none

/-! ## Device Control -/

/-- R87: every lane is low while a device reset is taken, whatever its polarity. -/
theorem test_deviceReset_lanes_low :
    laneLevel (after .deviceReset { State.reset with lanes := State.reset.lanes.set 3 { enable := true, polarity := .activeLow, trim := 0 } }) 3
      = false := by decide +kernel

/-- R169: 10 µs at 100 MHz. -/
theorem test_deviceResetComplete_lasts : (after .deviceResetComplete (after .deviceReset State.reset)).clock.now = 1000 := by
  decide +kernel

/-- 11.7: RUN 1 before the completion ring SIZE is a CONFIG fault that names the completion ring. -/
theorem test_run_before_size :
    (after (.run true) State.reset).run = false ∧
      (after (.run true) State.reset).fault = { kinds := { noKinds with config := true }, ring := .completion, index := 0 } := by
  decide +kernel

/-- 11.1: with the completion SIZE 64 and the priority SIZE 16, RUN 1 moves the Command Processor to RESERVING. -/
theorem test_run_start :
    (after (.run true) (after (.submissionSize .priority 16) (after (.completionSize 64) State.reset))).cp.state = .reserving := by
  decide +kernel

/-- 11.1: with no tracker entry busy RESETTING never becomes 1 and the divider takes effect in the reset event itself. -/
theorem test_engineReset_idle :
    (after (.engineReset true) (after (.tickDivider 2) State.reset)).resetting = false ∧
      (after (.engineReset true) (after (.tickDivider 2) State.reset)).divider = 2 := by decide +kernel

/-- 9.7: with entries 0 and 2 busy RESETTING becomes 1, both are VOID, and the divider in effect stays 1. -/
theorem test_engineReset_busy :
    (after (.engineReset true) (withRead 2 5 7 (withRead 0 4 6 { State.reset with dividerHeld := 4 }))).resetting = true ∧
      (after (.engineReset true) (withRead 2 5 7 (withRead 0 4 6 { State.reset with dividerHeld := 4 }))).tracker[(2 : EntryId)]
        = some { slot := 5, line := 7, expiry := 1000, isVoid := true } ∧
      (after (.engineReset true) (withRead 2 5 7 (withRead 0 4 6 { State.reset with dividerHeld := 4 }))).divider = 1 := by
  decide +kernel

/-- R94: FETCH_LIMIT 125 is a limit of 1000 µs (9.7), and 0 stands for 256. -/
theorem test_fetchLimit_units :
    fetchLimitMicros (after (.fetchLimit 125) State.reset).fetchLimit = 1000 ∧
      fetchLimitMicros (after (.fetchLimit 0) State.reset).fetchLimit = 2048 := by decide +kernel

/-- R163: 0 is held as 1, and a value above 16 as 16. -/
theorem test_tickDivider_held :
    (after (.tickDivider 0) State.reset).dividerHeld = 1 ∧ (after (.tickDivider 31) State.reset).dividerHeld = 16 := by decide +kernel

/-- R166: one of two kinds is cleared; the other stays, with RING and INDEX. -/
theorem test_faultClear_one :
    (after (.faultClear { noKinds with ringRead := true })
      { State.reset with fault := { kinds := { noKinds with ringRead := true, config := true }, ring := .normal, index := 31 } }).fault
      = { kinds := { noKinds with config := true }, ring := .normal, index := 31 } := by decide +kernel

/-- 10.5: IDENT reads 80h, revision 1 and the exponents 6, 2, 5, 4, 3, 2, 3; a write leaves it. -/
theorem test_registerWrite_ident : readWindow (after (.registerWrite .ident 0) State.reset) 0x00 = some 0x69CAB180 := by
  decide +kernel

/-! ## Ring registers -/

/-- R108: a BASE is held as a multiple of 64. -/
theorem test_submissionBase_rounded :
    (after (.submissionBase .normal .low 0x1234567F) State.reset).cp.normal.base = 0x12345640 := by decide +kernel

/-- R108: a SIZE sets PRODUCER and CONSUMER to 0. -/
theorem test_submissionSize_clears :
    (after (.submissionSize .normal 64) { withCp .stopped State.reset with run := false }).cp.normal
      = { base := 0x8000, size := 64, producer := 0, consumer := 0 } := by decide +kernel

/-- R111: in LOOKING a PRODUCER at SIZE is a RING_INDEX fault with that value, and RUN is cleared. -/
theorem test_producer_out_of_range :
    (after (.producer .normal 32) (withCp .looking State.reset)).fault
        = { kinds := { noKinds with ringIndex := true }, ring := .normal, index := 32 } ∧
      (after (.producer .normal 32) (withCp .looking State.reset)).run = false := by decide +kernel

/-- R147: a BASE is held as a multiple of 32. -/
theorem test_completionBase_rounded :
    (after (.completionBase .high 0xFFFFFFFF) (after (.completionBase .low 0x3F) State.reset)).comp.base = 0xFFFFFFFF00000020 := by
  decide +kernel

/-- R147: a SIZE makes both indices 0 and LAP 1. -/
theorem test_completionSize_clears :
    (after (.completionSize 256)
        { State.reset with comp := { State.reset.comp with size := 16, producer := 3, consumer := 2, lap := false, times := [5] } }).comp
      = { State.reset.comp with size := 256 } := by decide +kernel

/-- The completion ring of 8.6: SIZE 16, PRODUCER 15, CONSUMER 0, LAP 1. -/
def fullRing : CompletionRing :=
  { base := 0x10000, size := 16, producer := 15, consumer := 0, lap := true, stopped := false, times := List.replicate 15 0 }

/-- 8.6: CONSUMER 3 releases three entries; the unreleased count is 12. -/
theorem test_consumer_releases : unreleased (after (.consumer 3) { State.reset with comp := fullRing }).comp = 12 := by decide +kernel

/-- R150: one beyond the span is a completion index fault: CONSUMER keeps its value and posting stops. -/
theorem test_consumer_beyond :
    (after (.consumer 4) { State.reset with comp := { fullRing with producer := 3, times := [0, 0, 0] } }).comp
        = { fullRing with producer := 3, times := [0, 0, 0], stopped := true } ∧
      (after (.consumer 4) { State.reset with comp := { fullRing with producer := 3, times := [0, 0, 0] } }).fault
        = { kinds := { noKinds with compIndex := true }, ring := .completion, index := 4 } := by decide +kernel

/-- R157: THRESHOLD 0 is stored as 1. -/
theorem test_intMod_zero : (after (.intMod 0 200) State.reset).intMod = { threshold := 1, age := 200 } := by decide +kernel

/-- 8.7: at 200 µs the oldest of two entries has waited AGE: the condition becomes true and a message is sent. -/
theorem test_ageExpiry_at_200 :
    (after .ageExpiry { State.reset with
        comp := { fullRing with producer := 2, times := [0, 5000] }, intMod := { threshold := 4, age := 200 } }).link = [.interrupt] ∧
      (after .ageExpiry { State.reset with
        comp := { fullRing with producer := 2, times := [0, 5000] }, intMod := { threshold := 4, age := 200 } }).clock.now = 20000 := by
  decide +kernel

/-! ## Line clocks (3.9, 3.10) -/

/-- G2 of 3.9: EXTERNAL, DELAY 300, MIN_INTERVAL 1000. -/
def admission (k : LineClock) (last : Option Nat) (m : IntervalMonitor) : State :=
  { withConfig 2 { fields 1 8 with delay := 300, minInterval := 1000 } k State.reset with
    groups := State.reset.groups.set 2 { GroupState.reset with clock := k, lastAccepted := last, monitor := m } }

/-- 3.9, first row: accepted, not measured, DELAYING to 10,300. -/
theorem test_trigger_first :
    (after (.trigger 2 .rising 10000) (admission .waitEdge none IntervalMonitor.reset)).groups[(2 : GroupId)]
      = { GroupState.reset with
          clock := .delaying 10300, lastAccepted := some 10000,
          counters := { GroupCounters.reset with trigAccepted := 1 } } := by decide +kernel

/-- 3.9, the edge at 30,000,000: measured as 16,777,215 and saturated. -/
theorem test_trigger_saturates :
    (after (.trigger 2 .rising 30000000)
        (admission .waitEdge (some 12600) { last := 1100, min := 1100, max := 1500, saturated := false })).groups[(2 : GroupId)].monitor
      = { last := 16777215, min := 1100, max := 16777215, saturated := true } := by decide +kernel

/-- G0, G1 and G2 of 3.10. -/
def chain (k1 k2 : LineClock) : State :=
  withConfig 2 { fields 2 8 with leader := 1, delay := 2500 } k2
    (withConfig 1 { fields 2 4 with leader := 0, delay := 500 } k1
      (withConfig 0 { fields 0 0 with period := 2000 } (.counting 0) State.reset))

/-- 3.10, tick 2,000: G0's next period begins and G1 counts down to 2,500. -/
theorem test_periodEnd_chain :
    (after (.periodEnd 0) (chain .waitLeader .waitLeader)).groups[(0 : GroupId)].clock = .counting 2000 ∧
      (after (.periodEnd 0) (chain .waitLeader .waitLeader)).groups[(1 : GroupId)].clock = .delaying 2500 := by decide +kernel

/-- 3.10, tick 4,500: G1's line event is dropped busy by G2. -/
theorem test_countdownExpiry_chain :
    (after (.countdownExpiry 1) (chain (.delaying 4500) (.delaying 5000))).groups[(1 : GroupId)].clock = .waitLeader ∧
      (after (.countdownExpiry 1) (chain (.delaying 4500) (.delaying 5000))).groups[(2 : GroupId)].counters.trigBusy = 1 := by
  decide +kernel

/-! ## Line events at the jobs -/

/-- 1.11, line event 1: 4F00h, FINISHING, ends; 5A00h, ARMED behind it, fires its line 0. -/
theorem test_periodEnd_handover :
    (after (.periodEnd 1) (withSlots [(0, .ready 3 0 0), (1, .ready 3 1 1), (2, .empty 3 2), (3, .empty 3 3)]
      (withJobIn 3 { aJob 1 .armed with cursor := 2 } (withJobIn 0 { aJob 1 .finishing with tag := 0x4F00, firePos := 3, supplied := 3 }
        (withConfig 1 (fields 0 0) (.counting 0) State.reset))))).lists[(1 : GroupId)] = [3] ∧
    ((after (.periodEnd 1) (withSlots [(0, .ready 3 0 0), (1, .ready 3 1 1), (2, .empty 3 2), (3, .empty 3 3)]
      (withJobIn 3 { aJob 1 .armed with cursor := 2 } (withJobIn 0 { aJob 1 .finishing with tag := 0x4F00, firePos := 3, supplied := 3 }
        (withConfig 1 (fields 0 0) (.counting 0) State.reset))))).jobs[(3 : CtxId)].map fun j => (j.state, j.firePos, j.linesFired))
      = some (.running, 1, 1) := by decide +kernel

/-- The job and the ring of 11.4, on G2, EXTERNAL with a countdown running. -/
def underrunState (p : Policy) : State :=
  withSlots [(8, .filling 4 0 12), (9, .firing 4 1 9), (10, .filling 4 2 10), (11, .ready 4 3 11)]
    (withRead 1 8 12 (withRead 0 10 10
      (withJobIn 4 { aJob 2 .running with policy := p, extents := [extent 0 20 10 false], supplied := 20, firePos := 10, cursor := 13,
                                          linesFired := 10 }
        (withConfig 2 (fields 1 0) (.delaying 50) State.reset))))

/-- 11.4, SKIP: S9 EMPTY, S10 STALE, the fire position 11, LINES_SKIPPED + 1. -/
theorem test_countdownExpiry_skip :
    (after (.countdownExpiry 2) (underrunState .skip)).slots[(9 : SlotId)].state = .empty 4 1 ∧
      (after (.countdownExpiry 2) (underrunState .skip)).slots[(10 : SlotId)].state = .stale 4 2 10 ∧
      ((after (.countdownExpiry 2) (underrunState .skip)).jobs[(4 : CtxId)].map fun j => (j.firePos, j.linesSkipped)) = some (11, 1) := by
  decide +kernel

/-- 11.4, STOP: the job ends UNDERRUN; S9 and S11 are FREE, S8 and S10 DISCARD. -/
theorem test_lineEvent_stop :
    ((produceLineEvent 2 (underrunState .stop)).jobs[(4 : CtxId)].map Job.state) = some (.ended .underrun) ∧
      ([8, 9, 10, 11].map fun i : SlotId => (produceLineEvent 2 (underrunState .stop)).slots[i].state)
        = [.discard, .free, .discard, .free] := by decide +kernel

/-- 11.4, HOLD: the slot and the fire position stay, HELD_EVENTS + 1. -/
theorem test_lineEvent_hold :
    (produceLineEvent 2 (underrunState .hold)).slots[(10 : SlotId)].state = .filling 4 2 10 ∧
      ((produceLineEvent 2 (underrunState .hold)).jobs[(4 : CtxId)].map fun j => (j.firePos, j.heldEvents)) = some (10, 1) := by
  decide +kernel

/-- Levels 9, 15, 3 and 15, as the two bytes of 4.8 carry them. -/
def fourLevels : Vector Level 64 := Vector.ofFn fun i => [(9 : Level), 15, 3, 15].getD i.val 0

/-- P2 of 4.8. -/
def profileTwo : Profile :=
  { entries := Vector.ofFn fun l =>
      if l = 3 then { delay := 40, width := 100 } else if l = 9 then { delay := 20, width := 250 }
      else if l = 15 then { delay := 5, width := 400 } else { delay := 0, width := 0 }
    generation := 6 }

/-- The state of 4.8 at tick 1,000, before the line event. -/
def fourLanes : State :=
  { withSlots [(0, .ready 5 0 40)]
      (withJobIn 5 { aJob 1 .running with tag := 0x2200, profile := 2, markEvery := 0, isOpen := true, supplied := 44, firePos := 40,
                                          cursor := 41 }
        (withConfig 1 (fields 0 8) (.counting 700) State.reset)) with
    slots := State.reset.slots.set 0 { state := .ready 5 0 40, levels := fourLevels }
    clock := { mhz := 100, now := 1000, tick := 1000, phase := 0 }
    profiles := State.reset.profiles.set 2 profileTwo
    lanes := ((State.reset.lanes.set 9 { enable := true, polarity := .activeHigh, trim := 0xE2 }).set 10
      { enable := true, polarity := .activeLow, trim := 12 }).set 11 { enable := false, polarity := .activeHigh, trim := 0 } }

/-- 4.8: the three pulses of line 40. -/
theorem test_lineEvent_pulses :
    ([8, 9, 10, 11].map fun i : LaneId => (produceLineEvent 1 fourLanes).pulses[i])
      = [.scheduled 1020 1270 1 5, .scheduled 1001 1401 1 5, .scheduled 1052 1152 1 5, .none] := by decide +kernel

/-- 4.8, the event at 1,300: LANE9 is cut and counts one in CLIPPED. -/
theorem test_lineEvent_clips :
    ((produceLineEvent 1 { fourLanes with pulses := State.reset.pulses.set 9 (.active 1001 1401 1 5) }).jobs[(5 : CtxId)].map Job.clipped)
      = some 1 := by decide +kernel

/-- 4.8, tick 1,001: LANE9 becomes ACTIVE. -/
theorem test_pulseStart_lane9 :
    (after (.pulseStart 9) { fourLanes with pulses := State.reset.pulses.set 9 (.scheduled 1001 1401 1 5) }).pulses[(9 : LaneId)]
        = .active 1001 1401 1 5 ∧
      (after (.pulseStart 9) { fourLanes with pulses := State.reset.pulses.set 9 (.scheduled 1001 1401 1 5) }).clock.tick = 1001 := by
  decide +kernel

/-- 2.10, last row: the last pulse of a FINISHING job's last line ends, and its ring is FREE. -/
theorem test_pulseEnd_finishing :
    (after (.pulseEnd 0) { withSlots [(5, .empty 3 0), (6, .firing 3 1 5), (9, .empty 3 2), (12, .empty 3 3)]
        (withJobIn 3 { aJob 0 .finishing with firePos := 6, supplied := 6, cursor := 6, linesFired := 5, linesSkipped := 1 } State.reset) with
        pulses := State.reset.pulses.set 0 (.active 1 9 0 3) }).holding = [.jobEnd 0x5A00 3 .ended 5 1 0 0 0] ∧
    (after (.pulseEnd 0) { withSlots [(5, .empty 3 0), (6, .firing 3 1 5), (9, .empty 3 2), (12, .empty 3 3)]
        (withJobIn 3 { aJob 0 .finishing with firePos := 6, supplied := 6, cursor := 6, linesFired := 5, linesSkipped := 1 } State.reset) with
        pulses := State.reset.pulses.set 0 (.active 1 9 0 3) }).slots[(6 : SlotId)].state = .free := by decide +kernel

/-! ## Slots and line reads -/

/-- 2.10: S0 to S4, S7, S8, S10 and S11 belong to other jobs; the grant gives S5, S6, S9 and S12. -/
theorem test_slotGrant_lowest :
    ([5, 6, 9, 12].map fun i : SlotId => (after .slotGrant { withSlots
        ([0, 1, 2, 3, 4, 7, 8, 10, 11].map fun i : SlotId => (i, SlotState.empty 9 0)) (withJobIn 3 (aJob 0 .waiting) State.reset) with
        slotWait := [3] }).slots[i].state) = [.empty 3 0, .empty 3 1, .empty 3 2, .empty 3 3] := by decide +kernel

/-- The four jobs of 5.8, each with one EMPTY slot for its cursor's line; the last-served group is G1. -/
def arbitration : State :=
  { withSlots [(0, .empty 0 2), (1, .empty 1 0), (2, .empty 2 0), (3, .empty 3 1)]
      (withJobIn 3 { aJob 2 .armed with extents := [extent 0 9 0 false], supplied := 9, cursor := 5, firePos := 2 }
        (withJobIn 2 (aJob 1 .primed)
          (withJobIn 1 { aJob 1 .running with extents := [extent 0 99 0 false], supplied := 99, cursor := 12, firePos := 10 }
            (withJobIn 0 { aJob 0 .running with extents := [extent 0 99 0 false], supplied := 99, cursor := 30, firePos := 28 }
              State.reset)))) with
    lastServed := 1 }

/-- 5.8, decision 1: job A's line 30 in entry 0; the last-served group is G0. The address is 4096 + 30 × 4. -/
theorem test_fetchIssue_first_class :
    (after .fetchIssue arbitration).tracker[(0 : EntryId)] = some { slot := 0, line := 30, expiry := 100000, isVoid := false } ∧
      (after .fetchIssue arbitration).lastServed = 0 ∧ (after .fetchIssue arbitration).link = [.memRead 4216 0] := by decide +kernel

/-- 5.8, with neither A nor B offered: D's line 5 is served before C's. -/
theorem test_fetchIssue_second_class :
    (after .fetchIssue (withSlots [(0, .ready 0 2 30), (1, .ready 1 0 12)] arbitration)).tracker[(0 : EntryId)]
      = some { slot := 3, line := 5, expiry := 100000, isVoid := false } := by decide +kernel

/-- The job of 5.9 when line 0 answers: lines 1 READY, 0, 2 and 3 in flight. -/
def retiring : State :=
  withSlots [(0, .filling 2 0 0), (1, .ready 2 1 1), (2, .filling 2 2 2), (3, .filling 2 3 3)]
    (withRead 0 0 0 (withRead 2 2 2 (withRead 3 3 3
      (withJobIn 2 { aJob 2 .primed with isOpen := true, extents := [extent 0 2 1 true, extent 2 3 0 true], supplied := 5, cursor := 4 }
        (withConfig 2 (fields 0 0) (.counting 0) State.reset)))))

/-- 5.9: line 0 answers: E0 retires with EXTENT_DONE of ordinal 0, and the job is ARMED. -/
theorem test_fetchDataAnswer_retires :
    (after (.fetchDataAnswer 0 [0xF9, 0xF3]) retiring).holding = [.extentDone 0x5A00 0] ∧
      ((after (.fetchDataAnswer 0 [0xF9, 0xF3]) retiring).jobs[(2 : CtxId)].map fun j => (j.state, j.extents, j.retired))
        = some (.armed, [extent 2 3 0 true], 1) ∧
      ([0, 1, 2, 3].map fun i : Fin 64 => (after (.fetchDataAnswer 0 [0xF9, 0xF3]) retiring).slots[(0 : SlotId)].levels[i])
        = [9, 15, 3, 15] := by decide +kernel

/-- 2.10: the STALE line 2 answers; its data is discarded and S9 is EMPTY. -/
theorem test_fetchDataAnswer_stale :
    (after (.fetchDataAnswer 0 [1, 2]) (withSlots [(10, .stale 4 2 10)] (underrunState .skip))).slots[(10 : SlotId)]
      = { state := .empty 4 2, levels := Vector.replicate 64 0 } := by decide +kernel

/-- 11.4: an error on entry 0 under HOLD ends the job FETCH_FAULT with FAULT_LINE 10. -/
theorem test_fetchErrorAnswer_faults :
    (after (.fetchErrorAnswer 0) (underrunState .hold)).holding = [.jobEnd 0x5A00 4 (.fetchFault 10) 10 0 0 0 0] := by decide +kernel

/-- 2.11: S21's read reaches the fetch limit; its slot is the fourth FREE one, and B is granted four slots. -/
theorem test_fetchExpiry_grants :
    ((after (.fetchExpiry 0) { withSlots (((List.finRange 32).drop 3).map fun i => (i, if i = 21 then SlotState.discard else .empty 9 0))
        (withRead 0 21 4 (withJobIn 1 (aJob 3 .waiting) State.reset)) with slotWait := [1] }).jobs[(1 : CtxId)].map Job.state)
      = some .primed := by decide +kernel

/-- 11.5: data that comes late reaches no slot. -/
theorem test_lateAnswer_discarded : (after .lateAnswer { retiring with lateReads := 1 }).slots = retiring.slots := by decide +kernel

/-! ## Command Processor -/

/-- R152: with eight placed records there is no reservation; with seven there is. -/
theorem test_reservation_waits :
    (after .reservation { withCp .reserving State.reset with holding := List.replicate 8 (.response 0 .ok 0) }).cp.state = .reserving ∧
      (after .reservation { withCp .reserving State.reset with holding := List.replicate 7 (.response 0 .ok 0) }).cp.reserved = true := by
  decide +kernel

/-- 6.9: the read of entry 30 at 8780h is issued. -/
theorem test_takeDecision_address : (after .takeDecision (withCp .looking State.reset)).link = [.memRead 0x8780 64] := by decide +kernel

/-- 6.8, command 5: with both rings loaded and the count at 4 the normal ring is taken. -/
theorem test_takeDecision_fifth :
    (after .takeDecision { withCp .looking State.reset with
        cp := { (withCp .looking State.reset).cp with
          count := 4, priority := { base := 0, size := 16, producer := 9, consumer := 7 } } }).cp.state
      = .record .normal 100000 := by decide +kernel

/-- 6.9: the fetch limit expires: STOPPED with the reservation, RUN 0, RING_READ with the normal ring. -/
theorem test_recordReadExpiry_fault :
    (after .recordReadExpiry (taking State.reset)).cp.state = .stopped ∧ (after .recordReadExpiry (taking State.reset)).cp.reserved = true ∧
      (after .recordReadExpiry (taking State.reset)).run = false ∧
      (after .recordReadExpiry (taking State.reset)).fault = { kinds := { noKinds with ringRead := true }, ring := .normal, index := 30 } := by
  decide +kernel

/-- R113: an error answer is the same fault, and the record is not consumed. -/
theorem test_recordReadError_fault :
    (after .recordReadError (taking State.reset)).fault.kinds = { noKinds with ringRead := true } ∧
      (after .recordReadError (taking State.reset)).cp.normal.consumer = 30 := by decide +kernel

/-- 6.9: a NOP ends with OK, CONSUMER 31 and RESERVING. -/
theorem test_nop_ends :
    lastResponse (after (.nop 3) (taking State.reset)) = some (.ok, 0) ∧ (after (.nop 3) (taking State.reset)).cp.normal.consumer = 31 ∧
      (after (.nop 3) (taking State.reset)).cp.state = .reserving := by decide +kernel

/-- R114: an OPCODE that names no command is BAD_FIELD. -/
theorem test_unknownOpcode_badField : lastResponse (after (.unknownOpcode 0x0C 3) (taking State.reset)) = some (.badField, 0) := by
  decide +kernel

/-! ## Commands -/

/-- The groups of 7.3's example, with one job on G2. -/
def checksChain : State :=
  withJobIn 0 (aJob 2 .primed) (withConfig 2 { fields 2 32 with laneCount := 16, leader := 1 } .waitLeader
    (withConfig 1 { fields 2 16 with laneCount := 16 } .waitLeader
      (withConfig 0 { fields 0 0 with laneCount := 16 } (.counting 0) (taking State.reset))))

/-- 7.3: the first four rows. -/
theorem test_configGroup_refusals :
    lastResponse (after (.configGroup 1 0 { fields 0 0 with laneCount := 16, period := 4000 }) checksChain) = some (.groupBusy, 0) ∧
      lastResponse (after (.configGroup 1 1 { fields 0 0 with laneCount := 0 }) checksChain) = some (.groupBusy, 0) ∧
      lastResponse (after (.configGroup 1 3 { fields 0 40 with laneCount := 16 }) checksChain) = some (.laneConflict, 0) ∧
      lastResponse (after (.configGroup 1 3 { fields 2 48 with laneCount := 16, leader := 3 }) checksChain) = some (.badField, 0) := by
  decide +kernel

/-- 7.3: G3 may follow G2; once G2's job has left, G0 may not. -/
theorem test_configGroup_follow :
    lastResponse (after (.configGroup 1 3 { fields 2 48 with laneCount := 16, leader := 2 }) checksChain) = some (.ok, 0) ∧
      (after (.configGroup 1 3 { fields 2 48 with laneCount := 16, leader := 2 }) checksChain).groups[(3 : GroupId)].clock = .waitLeader ∧
      lastResponse (after (.configGroup 1 0 { fields 2 0 with laneCount := 16, leader := 2 })
        { checksChain with lists := State.reset.lists }) = some (.followLoop, 0) := by decide +kernel

/-- 11.1: eight lane records are a table of 32 bytes. -/
theorem test_configLanes_reads : (after (.configLanes 1 0 8 0x400) (taking State.reset)).link = [.memRead 0x400 32] := by decide +kernel

/-- R132: PROFILE 8 is BAD_FIELD; a profile record is 64 bytes. -/
theorem test_loadProfile_reads :
    lastResponse (after (.loadProfile 1 8 0x400) (taking State.reset)) = some (.badField, 0) ∧
      (after (.loadProfile 1 7 0x400) (taking State.reset)).link = [.memRead 0x400 64] := by decide +kernel

/-- The state of 7.13: G1 with 24 lanes and two jobs, six live contexts, context 4 ENDED. -/
def sixContexts : State :=
  { withConfig 1 { fields 0 16 with laneCount := 24 } (.counting 0) (taking State.reset) with
    jobs := Vector.ofFn fun c : CtxId => if c.val < 6 then
      some { aJob 1 (if c = 4 then .ended .ended else .pending) with tag := if c = 4 then 0x0B00 else 0x0A01 + BitVec.ofNat 32 c.val } else none
    lists := State.reset.lists.set 1 [0, 1], endQueue := [4] }

/-- The START_JOB fields of 7.13. -/
def startFields (group depth arm n : Byte) : StartFields :=
  { isOpen := false, group := group, profile := 0, policy := 0, depth := depth, armLevel := arm, extentCount := n, markEvery := 0,
    listAddress := 0x800 }

/-- 7.13, records 1 to 3. -/
theorem test_startJob_refusals :
    lastResponse (after (.startJob 1 0x0C00 (startFields 1 8 9 2)) sixContexts) = some (.badField, 0) ∧
      lastResponse (after (.startJob 1 0x0C00 (startFields 3 4 2 2)) sixContexts) = some (.groupOff, 0) ∧
      lastResponse (after (.startJob 1 0x0B00 (startFields 1 4 2 2)) sixContexts) = some (.tagInUse, 0) := by decide +kernel

/-- 7.13, record 4: every state check passes, and the list of 32 bytes is read. -/
theorem test_startJob_reads : (after (.startJob 1 0x0C00 (startFields 1 4 2 2)) sixContexts).link = [.memRead 0x800 32] := by
  decide +kernel

/-- The parameters of records 4 and 5 of 7.13. -/
def twoExtents : JobParams :=
  { group := 1, profile := 0, policy := .skip, depth := 4, armLevel := 2, markEvery := 0, isOpen := false, extentCount := 2 }

/-- An extent list entry of one line at 1000h with a STRIDE. -/
def entryBytes (stride : Byte) : List Byte := [0, 0x10, 0, 0, 0, 0, 0, 0, 1, 0, stride, 0, 0, 0, 0, 0]

/-- 7.13, record 4: STRIDE 8 is less than the line size 12; the whole command is refused. Record 5: context 6, PENDING. -/
theorem test_auxiliaryReadData_extents :
    lastResponse (after (.auxiliaryReadData (entryBytes 12 ++ entryBytes 8))
      (withCp (.auxiliary .normal 1000 (.startJob 1 0x0C00 twoExtents)) sixContexts)) = some (.badField, 0) ∧
    lastResponse (after (.auxiliaryReadData (entryBytes 12 ++ entryBytes 12))
      (withCp (.auxiliary .normal 1000 (.startJob 1 0x0C00 twoExtents)) sixContexts)) = some (.ok, 6) := by decide +kernel

/-- R74, R75: an accepted profile record takes effect with the next generation; a DELAY of 4096 refuses it. -/
theorem test_auxiliaryReadData_profile :
    (after (.auxiliaryReadData ([5, 0, 0x90, 1] ++ List.replicate 60 0)) (reading (.loadProfile 1 3) State.reset)).profiles[(3 : ProfileId)].generation = 1 ∧
      (after (.auxiliaryReadData ([5, 0, 0x90, 1] ++ List.replicate 60 0)) (reading (.loadProfile 1 3) State.reset)).profiles[(3 : ProfileId)].entries[(0 : Fin 16)]
        = { delay := 5, width := 400 } ∧
      lastResponse (after (.auxiliaryReadData ([0, 0x10, 0, 0] ++ List.replicate 60 0)) (reading (.loadProfile 1 3) State.reset))
        = some (.badField, 0) := by decide +kernel

/-- 4.9: a failed profile read answers READ_FAULT and leaves the profile. -/
theorem test_auxiliaryReadError_readFault :
    lastResponse (after .auxiliaryReadError (reading (.loadProfile 1 3) State.reset)) = some (.readFault, 0) ∧
      (after .auxiliaryReadError (reading (.loadProfile 1 3) State.reset)).profiles[(3 : ProfileId)].generation = 0 := by decide +kernel

/-- R115: an expiry is a failed read at its moment. -/
theorem test_auxiliaryReadExpiry_readFault :
    lastResponse (after .auxiliaryReadExpiry (reading (.loadProfile 1 3) State.reset)) = some (.readFault, 0) ∧
      (after .auxiliaryReadExpiry (reading (.loadProfile 1 3) State.reset)).clock.now = 1000 := by decide +kernel

/-- 9.7: the answer to a void read changes no profile and no holding entry. -/
theorem test_voidReadAnswer_discarded :
    (after .voidReadAnswer (withCp .looking State.reset)).holding = [] ∧
      (after .voidReadAnswer (withCp .looking State.reset)).cp.state = .looking := by decide +kernel

/-- R137: a closed job refuses with JOB_CLOSED; an open one reads the list. -/
theorem test_appendLines_checks :
    lastResponse (after (.appendLines 1 0x5A00 1 0x800) (withJobIn 0 (aJob 1 .primed) (taking State.reset))) = some (.jobClosed, 0) ∧
      (after (.appendLines 1 0x5A00 1 0x800) (withJobIn 0 { aJob 1 .primed with isOpen := true } (taking State.reset))).link
        = [.memRead 0x800 16] := by decide +kernel

/-- 11.2, last row: the job ends at once; its JOB_END stands ahead of the close's OK. -/
theorem test_closeJob_ends :
    (after (.closeJob 8 0x5A00) (withJobIn 0 { aJob 1 .running with
        isOpen := true, extents := [], supplied := 4, firePos := 4, cursor := 4, linesFired := 4, heldEvents := 3 } (taking State.reset))).holding
      = [.jobEnd 0x5A00 0 .ended 4 0 3 0 0, .response 8 .ok 0] := by decide +kernel

/-- 11.5, first row: JOB_END, then OK; the FILLING slots are DISCARD, the others FREE. -/
theorem test_abortJob_ends :
    (after (.abortJob 8 0x5A00) (taking (underrunState .skip))).holding = [.jobEnd 0x5A00 4 .aborted 10 0 0 0 0, .response 8 .ok 0] ∧
      ([8, 9, 10, 11].map fun i : SlotId => (after (.abortJob 8 0x5A00) (taking (underrunState .skip))).slots[i].state)
        = [.discard, .free, .discard, .free] := by decide +kernel

/-- 3.11: HOLD_GROUP makes the hold PENDING; the next line event makes it HELD and counts 1. -/
theorem test_holdGroup_pending :
    (after (.holdGroup 1 3) (withConfig 3 (fields 0 0) (.counting 0) (taking State.reset))).groups[(3 : GroupId)].hold = .pending ∧
      lastResponse (after (.holdGroup 1 0) (taking State.reset)) = some (.groupOff, 0) := by decide +kernel

/-- 3.11: a line event under PENDING. -/
theorem test_lineEvent_boundary :
    ((produceLineEvent 3 (setHold 3 .pending (withConfig 3 (fields 0 0) (.counting 0) State.reset))).groups[(3 : GroupId)].hold,
      (produceLineEvent 3 (setHold 3 .pending (withConfig 3 (fields 0 0) (.counting 0) State.reset))).groups[(3 : GroupId)].counters.heldEvents)
      = (HoldState.held, 1) := by decide +kernel

/-- 3.11: RELEASE_GROUP makes HELD NONE. -/
theorem test_releaseGroup_none :
    (after (.releaseGroup 1 3) (setHold 3 .held (withConfig 3 (fields 0 0) (.counting 0) (taking State.reset)))).groups[(3 : GroupId)].hold
      = .none := by decide +kernel

/-- R67, R116: with a job in the list the drain is parked, without a response and with the reservation kept. -/
theorem test_drainGroup_parks :
    (after (.drainGroup 6 2) checksChain).groups[(2 : GroupId)].waiters = [{ cmdId := 6, state := .parked }] ∧
      (after (.drainGroup 6 2) checksChain).holding = [] ∧ (after (.drainGroup 6 2) checksChain).cp.reserved = true ∧
      (after (.drainGroup 6 2) checksChain).cp.normal.consumer = 31 := by decide +kernel

/-- 3.9: the report of G2 after tick 30,000,300: TRIG_ACCEPTED 4, TRIG_BUSY 2, TRIG_FAST 1, and with CLEAR the last accepted time stays. -/
theorem test_reportGroup_clears :
    ((reportBytes { State.reset with groups := State.reset.groups.set 2 { GroupState.reset with
        counters := { lineEvents := 4, idleEvents := 4, heldEvents := 0, trigAccepted := 4, trigBusy := 2, trigFast := 1 } } } 2).drop 24).take 24
      = [4, 0, 0, 0, 4, 0, 0, 0, 0, 0, 0, 0, 4, 0, 0, 0, 2, 0, 0, 0, 1, 0, 0, 0] ∧
    (after (.reportGroup 1 2 true 0x40) (taking { State.reset with groups := State.reset.groups.set 2 { GroupState.reset with
        lastAccepted := some 30000000, counters := { GroupCounters.reset with trigFast := 1 } } })).groups[(2 : GroupId)]
      = { GroupState.reset with lastAccepted := some 30000000 } := by decide +kernel

/-! ## Completions (8.6) -/

/-- The state of 8.6 before h1 is written: eight records placed, h1 the JOB_END of context 9, context 5 in the end queue. -/
def relief : State :=
  { State.reset with
    run := true
    cp := { State.reset.cp with state := .reserving }
    comp := { fullRing with consumer := 3, times := List.replicate 12 0 }
    holding := .jobEnd 0x900 9 .ended 1 2 3 4 5 :: List.replicate 7 (.response 0 .ok 0)
    jobs := (State.reset.jobs.set 9 (some { aJob 0 (.ended .ended) with tag := 0x900 })).set 5 (some { aJob 0 (.ended .aborted) with tag := 0x500 })
    endQueue := [5] }

/-- 8.6: h1 goes to entry 15 with LAP 1; PRODUCER wraps, context 9 is free, and context 5's JOB_END takes the freed entry. -/
theorem test_completionWrite_wraps :
    (after .completionWrite relief).link.head? = some (.memWrite 0x101E0
        [0x81, 0, 9, 0, 0x00, 0x09, 0, 0, 1, 0, 0, 0, 2, 0, 0, 0, 3, 0, 0, 0, 4, 0, 0, 0, 5, 0, 0, 0, 0, 0, 0, 0]) ∧
      (after .completionWrite relief).comp.producer = 0 ∧ (after .completionWrite relief).comp.lap = false ∧
      (after .completionWrite relief).jobs[(9 : CtxId)] = none ∧
      (after .completionWrite relief).holding.getLast? = some (.jobEnd 0x500 5 .aborted 0 0 0 0 0) := by decide +kernel

/-- 8.6: with no context waiting the freed entry is the Command Processor's. -/
theorem test_completionWrite_reserves :
    (after .completionWrite { relief with endQueue := [] }).cp.reserved = true ∧
      (after .completionWrite { relief with endQueue := [] }).cp.state = .looking := by decide +kernel

/-- R21: the oldest context of the end queue is placed when an entry is free. -/
theorem test_jobEndPlacement_places :
    (after .jobEndPlacement { relief with holding := [] }).holding = [.jobEnd 0x500 5 .aborted 0 0 0 0 0] ∧
      (after .jobEndPlacement { relief with holding := [] }).endQueue = [] := by decide +kernel

/-- R68: a drain waiter whose job's JOB_END has been placed is answered OK. -/
theorem test_drainResponse_places :
    (after .drainResponse { State.reset with
        eligible := [1], groups := State.reset.groups.set 1 { GroupState.reset with waiters := [{ cmdId := 6, state := .ready }] } }).holding
      = [.response 6 .ok 0] := by decide +kernel

/-- A job in a state other than ENDED. -/
theorem notEnded_open (j : Job) (h : endStatusOf j.state = none) : ¬ IsEnded j := by
  rintro ⟨st, k⟩
  rw [k] at h
  cases h

/-! ## Witnesses: a state and operands that meet the hypotheses of each statement, clause by clause -/

/-- A group in a hold state, INTERNAL from lane 0. -/
def heldGroup (h : HoldState) : State := setHold 3 h (withConfig 3 (fields 0 0) (.counting 0) State.reset)

theorem witness_StepRunsFrontCommandOrIdles :
    { State.reset with pending := [.slotGrant] }.pending = .slotGrant :: [] ∧ State.reset.pending = [] ∧
      State.reset.clock.phase < State.reset.divider.toNat ∧ State.reset.clock.phase + 1 = State.reset.divider.toNat ∧
      State.reset.clock.phase + 1 ≠ { State.reset with divider := 2 }.divider.toNat := by decide +kernel

theorem witness_HostWritesLostInDeviceReset :
    hostWriteCommand (.run true) = true ∧ { State.reset with inReset := some 0 }.inReset.isSome = true := by decide +kernel

theorem witness_DeviceResetLeavesResetValues : { State.reset with inReset := some 0 }.inReset = some 0 := rfl

theorem witness_IdentIsConstantAndNamesCapacities : (taking State.reset).inReset = none := rfl

/-- The completion ring and the priority ring with valid sizes, or not. -/
def sized (completion priority normal : Short) : State :=
  { State.reset with
    comp := { State.reset.comp with size := completion }
    cp := { State.reset.cp with
      priority := { State.reset.cp.priority with size := priority }
      normal := { State.reset.cp.normal with size := normal } } }

theorem witness_RunWriteStartsAndStopsCommands :
    (sized 16 16 0).inReset = none ∧ { sized 16 16 0 with resetting := true }.resetting = true ∧ (sized 16 16 0).resetting = false ∧
      { sized 16 16 0 with run := true }.run = true ∧ (sized 16 16 0).run = false ∧ (sized 16 16 0).cp.state = .stopped ∧
      (sized 16 16 0).cp.reserved = false ∧ { sized 16 16 0 with cp := { (sized 16 16 0).cp with reserved := true } }.cp.reserved = true ∧
      Config.validCompletionSize (sized 15 16 0).comp.size = false ∧ Config.validCompletionSize (sized 4096 16 0).comp.size = true ∧
      Config.validSubmissionSize (sized 16 2048 0).cp.priority.size = false ∧
      Config.validSubmissionSize (sized 16 1024 8).cp.priority.size = true ∧
      Config.validSubmissionSize (sized 16 1024 8).cp.normal.size = false ∧
      Config.validSubmissionSize (sized 16 16 0).cp.normal.size = true ∧ (sized 15 16 0).fault.kinds.config = false ∧
      { sized 15 16 0 with fault := { FaultReg.reset with kinds := { noKinds with config := true } } }.fault.kinds.config = true := by
  decide +kernel

theorem witness_RunWriteStartsAndStopsCommands_inProgress :
    InProgress { sized 16 16 0 with cp := { (sized 16 16 0).cp with state := .record .priority 5 } } .priority ∧
      { sized 16 16 0 with cp := { (sized 16 16 0).cp with state := .record .priority 5 } }.run = false := ⟨.inl ⟨5, rfl⟩, rfl⟩

theorem witness_FetchLimitAndDividerWritesAreHeld : State.reset.inReset = none := rfl

theorem witness_EngineResetEmptiesThePart :
    retiring.inReset = none ∧ retiring.resetting = false ∧ { retiring with resetting := true }.resetting = true ∧
      retiring.tracker[(3 : EntryId)] ≠ none ∧ ∀ e : EntryId, State.reset.tracker[e] = none := by decide +kernel

/-- RESETTING, with entry 0 VOID until 1000. -/
def voidRead : State :=
  { State.reset with
    resetting := true, tracker := State.reset.tracker.set 0 (some { slot := 0, line := 0, expiry := 1000, isVoid := true }) }

theorem witness_ResettingEndsWithLastVoidRead :
    voidRead.resetting = true ∧ voidRead.tracker[(0 : EntryId)] = some { slot := 0, line := 0, expiry := 1000, isVoid := true } ∧
      { voidRead with clock := { mhz := 100, now := 1000, tick := 0, phase := 0 } }.clock.now ≤ 1000 ∧
      (∀ d : EntryId, d ≠ 0 → voidRead.tracker[d] = none) ∧
      (withRead 3 1 1 voidRead).resetting = true ∧
      (withRead 3 1 1 voidRead).tracker[(0 : EntryId)] = some { slot := 0, line := 0, expiry := 1000, isVoid := true } ∧
      ∃ d : EntryId, d ≠ 0 ∧ (withRead 3 1 1 voidRead).tracker[d] ≠ none := by decide +kernel

theorem witness_FaultClearRemovesWrittenKinds : State.reset.inReset = none := rfl

theorem witness_FaultIsRecordedWithFirstRingAndIndex :
    kindConfig ≠ noKinds ∧ joinKinds State.reset.fault.kinds kindConfig ≠ State.reset.fault.kinds ∧
      joinKinds kindConfig kindConfig = kindConfig := by decide +kernel

theorem witness_AgeExpiryRaisesCondition :
    State.reset.comp.times = [] ∧ fullRing.times = 0 :: List.replicate 14 0 ∧ (200 : Short) ≠ 0 ∧ State.reset.intMod.age = 0 := by
  decide +kernel

theorem ringsOpen_reset : RingsOpen State.reset := ⟨rfl, (by intro r e h; cases h), (by intro r e a h; cases h)⟩

theorem witness_RingRegisterWritesAreTakenWhileStopped :
    State.reset.inReset = none ∧ RingsOpen State.reset ∧ ¬ RingsOpen (withCp .looking State.reset) ∧
      State.reset.cp.state ≠ .looking ∧ (withCp .looking State.reset).cp.state = .looking :=
  ⟨rfl, ringsOpen_reset, (fun h => Bool.noConfusion h.1), by decide +kernel, rfl⟩

theorem witness_ConsumerWriteReleasesOrFaults :
    CompletionOk { State.reset with comp := fullRing } ∧ { State.reset with comp := fullRing }.inReset = none ∧
      fullRing.stopped = false ∧ { fullRing with stopped := true }.stopped = true ∧ Config.validCompletionSize fullRing.size = true ∧
      (15 : Short).toNat < fullRing.size.toNat ∧
      (((15 : Short).toNat : Int) - fullRing.consumer.toNat) % fullRing.size.toNat ≤ (unreleased fullRing : Int) ∧
      ¬ ((16 : Short).toNat < fullRing.size.toNat) ∧
      CompletionOk { State.reset with comp := { fullRing with producer := 3, times := [0, 0, 0] } } ∧
      ¬ ((((4 : Short).toNat : Int) - fullRing.consumer.toNat) % fullRing.size.toNat
          ≤ (unreleased { fullRing with producer := 3, times := [0, 0, 0] } : Int)) ∧
      CompletionOk State.reset ∧ Config.validCompletionSize State.reset.comp.size = false ∧
      ¬ (Config.validCompletionSize State.reset.comp.size = false ∧ (1 : Short) = 0) := by
  unfold CompletionOk
  decide +kernel

theorem witness_ConsumerWriteReleasesOrFaults_stopped :
    (∃ t, exec (.intMod 1 0) { State.reset with comp := { fullRing with stopped := true } } = .next t) ∧
      (∃ t, exec .deviceReset State.reset = .next t) ∧ State.reset.inReset = none ∧ State.reset.resetting = false ∧
      ∃ t, exec (.engineReset true) State.reset = .next t := ⟨⟨_, rfl⟩, ⟨_, rfl⟩, rfl, rfl, ⟨_, rfl⟩⟩

/-- A THRESHOLD of 16 on a ring of 16 entries, with a fault recorded. -/
def farThreshold : State :=
  { State.reset with
    comp := fullRing, intMod := { threshold := 16, age := 0 }, fault := { FaultReg.reset with kinds := kindConfig } }

theorem witness_IntModWriteStoresAndEvaluates :
    State.reset.inReset = none ∧ (∃ t, exec (.engineReset true) State.reset = .next t) ∧ CompletionOk farThreshold ∧
      farThreshold.comp.size.toNat - 1 < farThreshold.intMod.threshold.toNat ∧ 1 ≤ farThreshold.intMod.threshold.toNat ∧
      Condition farThreshold :=
  ⟨rfl, ⟨_, rfl⟩, by unfold CompletionOk; decide +kernel, by decide +kernel, by decide +kernel, .inr (.inr (by decide +kernel))⟩

theorem witness_RegisterWindowReadsAndWrites :
    State.reset.inReset = none ∧ (0x00040502 : Word).getLsbD 1 = true ∧ State.reset.resetting = false ∧
      { State.reset with resetting := true }.resetting = true ∧ (0x00040501 : Word).getLsbD 1 = false := by decide +kernel

theorem witness_TriggersDroppedAreOnlyCounted :
    ¬ IsTrigger (fields 0 0) .rising ∧ (State.reset.groups[(2 : GroupId)].clock = .stopped) ∧ IsTrigger (fields 1 0) .rising ∧
      (admission (.delaying 10300) none IntervalMonitor.reset).groups[(2 : GroupId)].clock = .delaying 10300 ∧
      (admission .waitEdge (some 10000) IntervalMonitor.reset).groups[(2 : GroupId)].clock = .waitEdge ∧
      TooSoon (admission .waitEdge (some 10000) IntervalMonitor.reset).configs[(2 : GroupId)]
        (admission .waitEdge (some 10000) IntervalMonitor.reset).groups[(2 : GroupId)] 10999 :=
  ⟨by unfold IsTrigger; decide +kernel, by decide +kernel, by unfold IsTrigger; decide +kernel, by decide +kernel, by decide +kernel,
    by decide +kernel, 10000, by decide +kernel, by decide +kernel⟩

theorem witness_TriggerAcceptedStartsCountdown :
    IsTrigger (admission .waitEdge (some 10000) IntervalMonitor.reset).configs[(2 : GroupId)] .rising ∧
      (admission .waitEdge (some 10000) IntervalMonitor.reset).groups[(2 : GroupId)].clock = .waitEdge ∧
      (¬ TooSoon (admission .waitEdge (some 10000) IntervalMonitor.reset).configs[(2 : GroupId)]
        (admission .waitEdge (some 10000) IntervalMonitor.reset).groups[(2 : GroupId)] (max 0 11000)) ∧
      (admission .waitEdge (some 10000) IntervalMonitor.reset).configs[(2 : GroupId)].delay ≠ 0 ∧ (fields 1 0).delay = 0 := by
  refine ⟨by unfold IsTrigger; decide +kernel, by decide +kernel, ?_, by decide +kernel, by decide +kernel⟩
  rintro ⟨-, t, h, k⟩
  have e : some 10000 = some t := h
  cases e
  exact absurd k (by decide +kernel)

theorem witness_PeriodEndBeginsNextPeriod :
    (chain .waitLeader .waitLeader).groups[(0 : GroupId)].clock = .counting 0 ∧ State.reset.groups[(0 : GroupId)].clock = .stopped := by
  decide +kernel

theorem leadersOk_chain (k1 k2 : LineClock) : LeadersOk (chain k1 k2) := by
  have h : LeadersOk (chain .stopped .stopped) := by unfold LeadersOk; decide +kernel
  exact h

theorem witness_CountdownExpiryReturnsToWaiting :
    LeadersOk (chain (.delaying 4500) .waitLeader) ∧ (chain (.delaying 4500) .waitLeader).groups[(1 : GroupId)].clock = .delaying 4500 ∧
      hasSource (chain (.delaying 4500) .waitLeader).configs[(1 : GroupId)] .follow = true ∧
      hasSource (admission (.delaying 10300) none IntervalMonitor.reset).configs[(2 : GroupId)] .external = true ∧
      State.reset.groups[(1 : GroupId)].clock = .stopped :=
  ⟨leadersOk_chain _ _, by decide +kernel, by decide +kernel, by decide +kernel, by decide +kernel⟩

theorem witness_LineEventIsDeliveredOrKept :
    NoFollower (heldGroup .pending) 3 ∧ (heldGroup .pending).groups[(3 : GroupId)].hold ≠ .none ∧
      NoFollower (heldGroup .none) 3 ∧ (heldGroup .none).groups[(3 : GroupId)].hold = .none := by
  unfold NoFollower
  decide +kernel

theorem witness_LineEventIsDeliveredOrKept_followers :
    LeadersOk (chain .waitLeader .waitLeader) ∧ followsDirect (chain .waitLeader .waitLeader).configs 1 0 = true :=
  ⟨leadersOk_chain _ _, by decide +kernel⟩

theorem witness_FollowerTakesLeaderEvent :
    LeadersOk (chain .waitLeader (.delaying 5000)) ∧ followsDirect (chain .waitLeader (.delaying 5000)).configs 1 0 = true ∧
      (chain .waitLeader (.delaying 5000)).groups[(1 : GroupId)].clock = .waitLeader ∧
      followsDirect (chain .waitLeader (.delaying 5000)).configs 2 1 = true ∧
      (chain .waitLeader (.delaying 5000)).groups[(2 : GroupId)].clock = .delaying 5000 ∧
      (chain .stopped .stopped).groups[(1 : GroupId)].clock = .stopped :=
  ⟨leadersOk_chain _ _, by decide +kernel, by decide +kernel, by decide +kernel, by decide +kernel, by decide +kernel⟩

/-- The job of 4.8. -/
def lineJob : Job :=
  { aJob 1 .running with tag := 0x2200, profile := 2, markEvery := 0, isOpen := true, supplied := 44, firePos := 40, cursor := 41 }

/-- The job of 4.8 closed at its last line. -/
def lastJob : Job := { lineJob with isOpen := false, supplied := 41 }

/-- 4.8 with that job; `lanes` may be replaced by ones that are not enabled. -/
def lastLine : State := { fourLanes with jobs := fourLanes.jobs.set 5 (some lastJob) }

/-- No lane enabled. -/
def darkLine : State :=
  { lastLine with lanes := Vector.replicate 64 { enable := false, polarity := .activeHigh, trim := 0 } }

theorem fires_fourLanes : Fires fourLanes 1 5 [] lineJob 0 :=
  ⟨by unfold AtFront; decide +kernel, rfl, by decide +kernel, 40, by decide +kernel⟩

theorem fires_lastLine : Fires lastLine 1 5 [] lastJob 0 :=
  ⟨by unfold AtFront; decide +kernel, rfl, by decide +kernel, 40, by decide +kernel⟩

theorem fires_darkLine : Fires darkLine 1 5 [] lastJob 0 :=
  ⟨by unfold AtFront; decide +kernel, rfl, by decide +kernel, 40, by decide +kernel⟩

theorem witness_DeliveredEventFiresReadyLine :
    (Fires fourLanes 1 5 [] lineJob 0 ∧ ¬ LastLine lineJob) ∧
      (Fires lastLine 1 5 [] lastJob 0 ∧ LastLine lastJob ∧ formed lastLine 1 5 0 lastJob.profile 8 ≠ .none) ∧
      Fires darkLine 1 5 [] lastJob 0 ∧ LastLine lastJob ∧ ∀ lane : LaneId, formed darkLine 1 5 0 lastJob.profile lane = .none :=
  ⟨⟨fires_fourLanes, by unfold LastLine; decide +kernel⟩, ⟨fires_lastLine, by unfold LastLine; decide +kernel, by decide +kernel⟩,
    fires_darkLine, by unfold LastLine; decide +kernel, by decide +kernel⟩

theorem witness_PulsesFormedFromLatchedEntries :
    Fires fourLanes 1 5 [] lineJob 0 ∧ ¬ LastLine lineJob ∧ (4095 : Short).toNat ≤ 4095 :=
  ⟨fires_fourLanes, by unfold LastLine; decide +kernel, by decide +kernel⟩

/-- The job of 11.4. -/
def underrunJob (p : Policy) : Job :=
  { aJob 2 .running with
    policy := p, extents := [extent 0 20 10 false], supplied := 20, firePos := 10, cursor := 13, linesFired := 10 }

/-- The job of 11.4 at the end of what it has been supplied, and at its last line. -/
def starved (p : Policy) (supplied : Nat) : State :=
  { underrunState p with
    jobs := State.reset.jobs.set 4 (some { underrunJob p with supplied := supplied, isOpen := true, extents := [] }) }

theorem witness_UnderrunFollowsPolicy (p : Policy) :
    AtFront (underrunState p) 2 4 [] (underrunJob p) ∧ (underrunJob p).state = .running ∧
      NotReady (underrunState p) 4 (underrunJob p) ∧ (underrunJob p).firePos < (underrunJob p).supplied ∧ ¬ LastLine (underrunJob p) ∧
      slotAt (underrunState p) 4 ((underrunJob p).firePos % (underrunJob p).depth) = some 10 ∧
      (underrunState p).slots[(10 : SlotId)].state = .filling 4 2 10 := by
  unfold AtFront NotReady LastLine
  cases p <;> decide +kernel

theorem witness_UnderrunFollowsPolicy_edges :
    (AtFront (starved .skip 10) 2 4 [] { underrunJob .skip with supplied := 10, isOpen := true, extents := [] } ∧
      NotReady (starved .skip 10) 4 { underrunJob .skip with supplied := 10, isOpen := true, extents := [] }) ∧
    (AtFront (withSlots [(10, .empty 4 2)] (starved .skip 11)) 2 4 []
        { underrunJob .skip with supplied := 11, isOpen := true, extents := [] } ∧
      NotReady (withSlots [(10, .empty 4 2)] (starved .skip 11)) 4
        { underrunJob .skip with supplied := 11, isOpen := true, extents := [] }) ∧
    LastLine { underrunJob .skip with supplied := 11 } := by
  unfold AtFront NotReady LastLine
  decide +kernel

/-- Under HOLD and STOP no other job fires at the underrun of 11.4. -/
theorem witness_UnderrunFollowsPolicy_pulses :
    (deliver 2 (underrunState .hold)).lists[(2 : GroupId)].head? = some 4 ∧
      (deliver 2 (underrunState .stop)).lists[(2 : GroupId)].head? = none := by decide +kernel

/-- 1.11 before line event 1: 4F00h FINISHING, 5A00h ARMED and open behind it. -/
def handover : State :=
  withSlots [(0, .ready 3 0 0), (1, .ready 3 1 1), (2, .empty 3 2), (3, .empty 3 3)]
    (withJobIn 3 { aJob 1 .armed with isOpen := true, cursor := 2 }
      (withJobIn 0 { aJob 1 .finishing with tag := 0x4F00, firePos := 3 } (withConfig 1 (fields 0 0) (.counting 0) State.reset)))

/-- The same with another job at position 1, and the hold state. -/
def nextJob (j : Job) (h : HoldState) : State :=
  setHold 1 h { handover with jobs := handover.jobs.set 3 (some j) }

/-- A closed job of one line, ARMED: R12's last sentence on starting. -/
def oneLine : Job := { aJob 1 .armed with supplied := 1, cursor := 1 }

theorem witness_HandoverAtLineEvent :
    (∀ j h, AtFront (nextJob j h) 1 0 [3] { aJob 1 .finishing with tag := 0x4F00, firePos := 3 }) ∧
      (∀ j h, (nextJob j h).jobs[(3 : CtxId)] = some j ∧ (3 : CtxId) ∉ (nextJob j h).slotWait ∧
        (nextJob j h).groups[(1 : GroupId)].hold = h ∧ slotAt (nextJob j h) 3 (0 % 4) = some 0 ∧
        (nextJob j h).slots[(0 : SlotId)].state = .ready 3 (0 % 4) 0) ∧
      (3 : CtxId) ∉ ([] : List CtxId) ∧ oneLine.state = .armed ∧ oneLine.group = 1 ∧ (aJob 1 .armed).group = 1 ∧ LastLine oneLine ∧
      ¬ LastLine { aJob 1 .armed with isOpen := true, cursor := 2 } ∧
      (∀ lane, formed (nextJob oneLine .none) 1 3 0 0 lane = .none) ∧ HoldState.held ≠ .none ∧
      NoRing { nextJob (aJob 1 .waiting) .none with slots := State.reset.slots } 3 ∧
      AtFront { handover with lists := State.reset.lists.set 1 [0] } 1 0 [] { aJob 1 .finishing with tag := 0x4F00, firePos := 3 } ∧
      AtFront { handover with lists := State.reset.lists.set 1 [3] } 1 3 [] { aJob 1 .armed with isOpen := true, cursor := 2 } := by
  refine ⟨fun j h => ⟨rfl, by decide, rfl, rfl⟩, fun j h => ⟨rfl, (by cases h <;> exact (by decide : (3 : CtxId) ∉ [])), rfl, ?_, rfl⟩,
    by decide, rfl, rfl, rfl, ⟨rfl, rfl⟩, by unfold LastLine; decide, by decide +kernel, by decide, ?_, by unfold AtFront; decide +kernel,
    by unfold AtFront; decide +kernel⟩
  · have e : slotAt handover 3 (0 % 4) = some 0 := by decide +kernel
    exact e
  · have e : ∀ i : SlotId, ringPlace State.reset.slots[i].state = none := by decide +kernel
    intro i k f
    have f' : ringPlace State.reset.slots[i].state = some (3, k) := f
    rw [e i] at f'
    cases f'

/-- 4.8's profile with the one-line job: a pulse is formed for its last line. -/
theorem witness_HandoverAtLineEvent_pulse :
    LastLine lastJob ∧ ∃ lane, formed lastLine 1 5 0 lastJob.profile lane ≠ .none :=
  ⟨⟨rfl, rfl⟩, 8, by decide +kernel⟩

theorem witness_IdleEventOnlyCutsAndCounts :
    State.reset.lists[(0 : GroupId)] = [] ∧ AtFront (withJobIn 3 (aJob 0 .waiting) State.reset) 0 3 [] (aJob 0 .waiting) ∧
      AtFront (withJobIn 3 (aJob 0 .primed) State.reset) 0 3 [] (aJob 0 .primed) := by
  unfold AtFront
  decide +kernel

/-- A FINISHING job with one or two pulses. -/
def lastPulse (other : Pulse) : State :=
  { withJobIn 3 (aJob 0 .finishing) State.reset with pulses := (State.reset.pulses.set 0 (.active 1 9 0 3)).set 1 other }

theorem witness_PulsesStartAndEndAtTheirTicks :
    (lastPulse (.scheduled 5 6 0 3)).pulses[(1 : LaneId)] = .scheduled 5 6 0 3 ∧
      (lastPulse .none).pulses[(0 : LaneId)] = .active 1 9 0 3 ∧
      (∃ other : LaneId, other ≠ 0 ∧ pulseJob (lastPulse (.scheduled 5 6 0 3)).pulses[other] = some (0, 3)) ∧
      (∀ other : LaneId, other ≠ 0 → ∀ d, pulseJob (lastPulse .none).pulses[other] ≠ some (0, d)) ∧
      (lastPulse .none).jobs[(3 : CtxId)] = some (aJob 0 .finishing) ∧ State.reset.pulses[(7 : LaneId)] = .none ∧
      (lastPulse .none).inReset = none := by
  decide +kernel

/-- Jobs waiting for slots, of which so many are FREE. -/
def waiting (free : Nat) (l : List CtxId) : State :=
  { withSlots (((List.finRange 32).drop free).map fun i => (i, SlotState.empty 9 0))
      (withJobIn 2 { aJob 1 .waiting with depth := 16 } (withJobIn 1 (aJob 0 .waiting) State.reset)) with slotWait := l }

theorem witness_GrantServesHeadWithLowestSlots :
    (waiting 4 [1]).slotWait = [1] ∧ (waiting 4 [1]).jobs[(1 : CtxId)] = some (aJob 0 .waiting) ∧ freeCount (waiting 4 [1]) = 4 ∧
      freeCount (waiting 3 [1]) < 4 ∧ NoRing (waiting 4 [1]) 1 ∧
      (waiting 5 [1, 2]).jobs[(2 : CtxId)] = some { aJob 1 .waiting with depth := 16 } ∧ freeCount (waiting 5 [1, 2]) - 4 < 16 ∧
      (1 : CtxId) ∉ [(2 : CtxId)] ∧ State.reset.slotWait = [] := by
  refine ⟨by decide +kernel, by decide +kernel, by decide +kernel, by decide +kernel, ?_, by decide +kernel, by decide +kernel,
    by decide +kernel, rfl⟩
  have h : ∀ i : SlotId, (ringPlace (waiting 4 [1]).slots[i].state).map Prod.fst ≠ some 1 := by decide +kernel
  intro i k e
  exact h i (by rw [e]; rfl)

/-- One job with a line to fetch. -/
def fetching : State :=
  withSlots [(0, .empty 0 2)]
    (withJobIn 0 { aJob 0 .running with extents := [extent 0 99 0 false], supplied := 99, cursor := 30, firePos := 28 } State.reset)

/-- That job. -/
def fetchJob : Job := { aJob 0 .running with extents := [extent 0 99 0 false], supplied := 99, cursor := 30, firePos := 28 }

theorem fetching_jobs (d : CtxId) (m : Job) (h : fetching.jobs[d] = some m) : d = 0 ∧ m = fetchJob := by
  have k : ∀ d : CtxId, fetching.jobs[d] = none ∨ d = 0 := by decide +kernel
  obtain e | rfl := k d
  · rw [e] at h; cases h
  · exact ⟨rfl, (Option.some.inj h).symm⟩

theorem isServed_fetching : IsServed fetching 0 0 fetchJob := by
  refine ⟨⟨[], [], by decide +kernel, by intro d hd; cases hd⟩, ?_⟩
  have k : ∀ h : GroupId, (0 : CtxId) ∈ fetching.lists[h] → h = 0 := by decide +kernel
  intro h d hd m i ho
  obtain ⟨rfl, rfl⟩ := fetching_jobs d m ho.1
  obtain rfl := k h hd
  exact ⟨id, fun _ => le_refl _⟩

theorem witness_FetchIssueReadsCursorLine :
    fetching.tracker[(0 : EntryId)] = none ∧ (∀ d : EntryId, d < 0 → fetching.tracker[d] ≠ none) ∧ Offers fetching 0 fetchJob 0 ∧
      IsServed fetching 0 0 fetchJob ∧ fetchJob.group = 0 ∧
      fetchJob.extents.find? (fun y => decide (y.firstLine ≤ fetchJob.cursor ∧ fetchJob.cursor < y.firstLine + y.lines.toNat))
        = some (extent 0 99 0 false) ∧
      (∀ g : GroupId, ∀ c ∈ State.reset.lists[g], ∀ j i, ¬ Offers State.reset c j i) ∧
      ∀ e : EntryId, (withRead 3 0 0 (withRead 2 0 0 (withRead 1 0 0 (withRead 0 0 0 State.reset)))).tracker[e] ≠ none := by
  refine ⟨by decide +kernel, by decide +kernel, by unfold Offers; decide +kernel, isServed_fetching, by decide +kernel,
    by decide +kernel, ?_, by decide +kernel⟩
  have k : ∀ g : GroupId, State.reset.lists[g] = [] := by decide +kernel
  intro g c hc
  rw [k g] at hc
  cases hc

/-- A read at the last moment before its expiry. -/
def liveRead (st : SlotState) : State :=
  { withSlots [(0, st)] retiring with clock := { mhz := 100, now := 1000, tick := 1000, phase := 0 } }

theorem liveRead_live (st : SlotState) : LiveRead (liveRead st) 0 { slot := 0, line := 0, expiry := 1000, isVoid := false } :=
  ⟨rfl, (by decide : 1000 ≤ 1000), rfl, rfl⟩

theorem witness_DataAnswerFillsOrFreesSlot :
    (∀ st, LiveRead (liveRead st) 0 { slot := 0, line := 0, expiry := 1000, isVoid := false }) ∧
      (liveRead (.filling 2 0 0)).slots[(0 : SlotId)].state = .filling 2 0 0 ∧
      (∃ j, (liveRead (.filling 2 0 0)).jobs[(2 : CtxId)] = some j ∧
        [(0 : Byte), 0].length = ((liveRead (.filling 2 0 0)).configs[j.group].laneCount.toNat + 1) / 2 ∧
        [(0 : Byte)].length ≠ ((liveRead (.filling 2 0 0)).configs[j.group].laneCount.toNat + 1) / 2) ∧
      (liveRead (.stale 2 0 0)).slots[(0 : SlotId)].state = .stale 2 0 0 ∧ (liveRead .discard).slots[(0 : SlotId)].state = .discard ∧
      (liveRead .free).slots[(0 : SlotId)].state = .free :=
  ⟨liveRead_live, by decide +kernel, ⟨_, rfl, by decide +kernel, by decide +kernel⟩, by decide +kernel, by decide +kernel,
    by decide +kernel⟩

theorem witness_FailedReadEndsJobOrFreesSlot :
    LiveRead (liveRead (.filling 2 0 0)) 0 { slot := 0, line := 0, expiry := 1000, isVoid := false } ∧
      (liveRead (.filling 2 0 0)).slots[(0 : SlotId)].state = .filling 2 0 0 ∧
      (∃ j, (liveRead (.filling 2 0 0)).jobs[(2 : CtxId)] = some j ∧ ¬ IsEnded j) ∧
      (liveRead (.filling 9 0 0)).jobs[(9 : CtxId)] = none ∧ (liveRead .discard).slots[(0 : SlotId)].state = .discard ∧
      (liveRead .free).slots[(0 : SlotId)].state = .free :=
  ⟨liveRead_live _, by decide +kernel, ⟨_, rfl, notEnded_open _ rfl⟩, by decide +kernel, by decide +kernel, by decide +kernel⟩

/-- The expiry acts late: its moment has gone by. -/
theorem witness_FailedReadEndsJobOrFreesSlot_late :
    { liveRead .discard with clock := { mhz := 100, now := 1001, tick := 1001, phase := 0 } }.tracker[(0 : EntryId)]
        = some { slot := 0, line := 0, expiry := 1000, isVoid := false } ∧
      1000 < { liveRead .discard with clock := { mhz := 100, now := 1001, tick := 1001, phase := 0 } }.clock.now ∧
      (liveRead .discard).resetting = false := ⟨rfl, by decide, rfl⟩

theorem no_recordRead (s : State) (r : SubRing) (h : s.cp.state = .looking) : ¬ RecordRead s r := by
  rintro ⟨e, k, -⟩
  rw [h] at k
  cases k

theorem no_tableRead (s : State) (r : SubRing) (a : AuxCommand) (h : s.cp.state = .looking) : ¬ TableRead s r a := by
  rintro ⟨e, k, -⟩
  rw [h] at k
  cases k

theorem witness_LateAnswersAreDiscarded :
    { retiring with clock := { mhz := 100, now := 1001, tick := 0, phase := 0 } }.tracker[(0 : EntryId)]
        = some { slot := 0, line := 0, expiry := 1000, isVoid := false } ∧
      1000 < { retiring with clock := { mhz := 100, now := 1001, tick := 0, phase := 0 } }.clock.now ∧
      retiring.tracker[(1 : EntryId)] = none ∧ (∀ r, ¬ RecordRead (withCp .looking State.reset) r) ∧ recordAnswer (.nop 0) = true ∧
      wellFormed (.nop 0) = true ∧ ∀ r a, ¬ TableRead (withCp .looking State.reset) r a :=
  ⟨by decide +kernel, by decide +kernel, by decide +kernel, fun r => no_recordRead _ r rfl, rfl, rfl, fun r a => no_tableRead _ r a rfl⟩

/-- LOOKING with given rings and count. -/
def rings (priority normal : RingRegs) (count : Nat) : State :=
  { State.reset with
    run := true
    cp := { state := .looking, reserved := true, priority := priority, normal := normal, count := count, voidReads := 0 } }

/-- A ring of 16 entries. -/
def ring16 (producer consumer : Short) : RingRegs := { base := 0x8000, size := 16, producer := producer, consumer := consumer }

theorem witness_ReservationAndTakeDecision :
    (withCp .reserving State.reset).cp.state = .reserving ∧ (withCp .reserving State.reset).holding.length < 8 ∧
      State.reset.cp.priority.producer = State.reset.cp.priority.consumer ∧ State.reset.cp.priority.size.toNat = 0 ∧
      State.reset.cp.normal.size = 0 ∧ 8 ≤ relief.holding.length ∧ State.reset.cp.state ≠ .looking ∧
      ProducerBad (ring16 16 0) ∧ ¬ ProducerBad (ring16 15 0) ∧ HoldsRecords (ring16 15 0) ∧ ¬ HoldsRecords (ring16 5 5) ∧
      (rings (ring16 15 0) (ring16 1 0) 3).cp.state = .looking ∧ (rings (ring16 15 0) (ring16 1 0) 3).cp.count < 4 ∧
      4 ≤ (rings (ring16 15 0) (ring16 1 0) 4).cp.count := by
  unfold ProducerBad HoldsRecords
  decide +kernel

theorem recordRead_taking (s : State) (h : s.clock.now ≤ 1000) : RecordRead (taking s) .normal := ⟨1000, rfl, h⟩

theorem tableRead_reading (a : AuxCommand) (s : State) (h : s.clock.now ≤ 1000) : TableRead (reading a s) .normal a := ⟨1000, rfl, h⟩

theorem witness_FailedReadsOfTheCommandProcessor :
    (taking State.reset).cp.state = .record .normal 1000 ∧ RecordRead (taking State.reset) .normal ∧
      (reading (.loadProfile 1 3) State.reset).cp.state = .auxiliary .normal 1000 (.loadProfile 1 3) ∧
      TableRead (reading (.loadProfile 1 3) State.reset) .normal (.loadProfile 1 3) ∧ State.reset.cp.state = .stopped :=
  ⟨rfl, recordRead_taking _ (by decide +kernel), rfl, tableRead_reading _ _ (by decide +kernel), rfl⟩

theorem witness_NopAndUnknownOpcodeEnd :
    RecordRead (taking State.reset) .normal ∧ 0x0B < (0x0C : Byte).toNat ∧ (0x0B : Byte).toNat ≤ 0x0B :=
  ⟨recordRead_taking _ (by decide +kernel), by decide +kernel, by decide +kernel⟩

/-- The fields of the last row of 7.3's example. -/
def followFields : GroupFields := { fields 2 48 with laneCount := 16, leader := 2 }

theorem checksChain_reads : RecordRead checksChain .normal := ⟨1000, rfl, by decide +kernel⟩

theorem fieldsInRange_internal : FieldsInRange 3 { fields 0 40 with laneCount := 16 } := by
  unfold FieldsInRange; decide +kernel

theorem notBusy_three (f : GroupFields) (h : f.laneCount ≠ 0) : ¬ ConfigBusy checksChain 3 f := by
  rintro (k | ⟨g, k, m⟩ | ⟨k, -⟩)
  · exact k (by decide +kernel)
  · have e : ∀ g : GroupId, follows checksChain.configs 3 g = false := by decide +kernel
    rw [e g] at k; cases k
  · exact h k

theorem shares_three : SharesLane checksChain 3 { fields 0 40 with laneCount := 16 } :=
  ⟨2, by decide +kernel, 40, by decide +kernel, by decide +kernel⟩

theorem not_shares_follow : ¬ SharesLane checksChain 3 followFields := by
  have e : ∀ h : GroupId, h ≠ 3 →
      checksChain.configs[h].firstLane.toNat + checksChain.configs[h].laneCount.toNat ≤ 48 := by decide +kernel
  rintro ⟨h, hne, lane, k, m⟩
  have n := e h hne
  simp only [inSpan, decide_eq_true_eq] at k m
  have f : followFields.firstLane.toNat = 48 := rfl
  omega

theorem witness_ConfigGroupChecksInOrderAndApplies :
    RecordRead checksChain .normal ∧ 3 < (4 : Word).toNat ∧ (3 : Word).toNat = (3 : GroupId).val ∧
      ¬ FieldsInRange 3 { followFields with leader := 3 } ∧ FieldsInRange 3 { fields 0 40 with laneCount := 16 } ∧
      ConfigBusy checksChain 2 { fields 0 32 with laneCount := 16 } ∧ ¬ ConfigBusy checksChain 3 { fields 0 40 with laneCount := 16 } ∧
      SharesLane checksChain 3 { fields 0 40 with laneCount := 16 } ∧ FieldsInRange 3 followFields ∧
      ¬ ConfigBusy checksChain 3 followFields ∧ ¬ SharesLane checksChain 3 followFields ∧ ¬ MakesLoop checksChain 3 followFields ∧
      ¬ LeaderOff checksChain followFields ∧ MakesLoop checksChain 0 followFields ∧ LeaderOff State.reset followFields := by
  refine ⟨checksChain_reads, by decide +kernel, by decide +kernel, by unfold FieldsInRange; decide +kernel, fieldsInRange_internal,
    .inl (by decide +kernel), notBusy_three _ (by decide +kernel), shares_three, by unfold FieldsInRange; decide +kernel,
    notBusy_three _ (by decide +kernel), not_shares_follow, ?_, ?_, ⟨by decide +kernel, 2, by decide +kernel, by decide +kernel⟩,
    ⟨by decide +kernel, 2, by decide +kernel, by decide +kernel⟩⟩
  · have e : ∀ l : GroupId, walkReaches checksChain.configs 3 4 l = true → l = 3 := by decide +kernel
    rintro ⟨-, l, h, k⟩
    have := e l k
    subst this
    exact absurd h (by decide +kernel)
  · have e : ∀ l : GroupId, followFields.leader.toNat = l.val → checksChain.configs[l].laneCount ≠ 0 := by decide +kernel
    rintro ⟨-, m, h, k⟩
    exact e m h k

/-- A state in which the record is being read and one open job stands on G1. -/
def openJob : State := withJobIn 0 { aJob 1 .primed with isOpen := true } (withConfig 1 (fields 0 0) (.counting 0) (taking State.reset))

theorem openJob_jobs (d : CtxId) (m : Job) (h : openJob.jobs[d] = some m) : d = 0 ∧ m = { aJob 1 .primed with isOpen := true } := by
  have k : ∀ d : CtxId, openJob.jobs[d] = none ∨ d = 0 := by decide +kernel
  obtain e | rfl := k d
  · rw [e] at h; cases h
  · exact ⟨rfl, (Option.some.inj h).symm⟩

theorem not_tagLive (tag : Word) (h : tag ≠ 0x5A00) : ¬ TagLive openJob tag := by
  rintro ⟨c, j, k, m⟩
  obtain ⟨-, rfl⟩ := openJob_jobs c j k
  exact h m.symm

theorem carries_openJob : Carries openJob 0x5A00 0 { aJob 1 .primed with isOpen := true } :=
  ⟨rfl, rfl, fun d k h => absurd h (Fin.not_lt_zero d)⟩

/-- The parameters of START_JOB fields on G1. -/
def openParams (n : Nat) : JobParams :=
  { group := 1, profile := 0, policy := .skip, depth := 16, armLevel := 16, markEvery := 0, isOpen := true, extentCount := n }

/-- START_JOB fields at the ends of their ranges. -/
def openFields (n : Byte) : StartFields := { startFields 1 16 16 n with isOpen := true }

theorem startInRange_openFields : StartInRange (openFields 16) ∧ StartInRange (openFields 0) := by
  unfold StartInRange; decide +kernel

theorem paramsOf_openFields : ParamsOf (openFields 16) (openParams 16) ∧ ParamsOf (openFields 0) (openParams 0) := by
  unfold ParamsOf; decide +kernel

theorem startFits_openJob : StartFits openJob 7 1 :=
  ⟨by decide +kernel, not_tagLive 7 (by decide +kernel), ⟨1, by decide +kernel⟩, by decide +kernel⟩

theorem not_lanesBusy : ¬ LanesBusy openJob 60 4 := by
  have e : ∀ g : GroupId, openJob.configs[g].firstLane.toNat + openJob.configs[g].laneCount.toNat ≤ 4 := by decide +kernel
  rintro ⟨x, h, lane, k, l, m⟩
  have n := e x
  simp only [inSpan, decide_eq_true_eq] at m
  have f : (60 : Byte).toNat = 60 := rfl
  omega

theorem openJob_reads : RecordRead openJob .normal := ⟨1000, rfl, by decide +kernel⟩

theorem witness_AcceptedRecordsReadTheirTables :
    RecordRead openJob .normal ∧ LanesInRange 60 4 0x400 ∧ ¬ LanesBusy openJob 60 4 ∧ (7 : Byte).toNat = (7 : ProfileId).val ∧
      Aligned 0x400 ∧ StartInRange (openFields 16) ∧ ParamsOf (openFields 16) (openParams 16) ∧ StartFits openJob 7 1 ∧
      (openFields 16).extentCount ≠ 0 ∧ AppendInRange 15 0x400 ∧ Carries openJob 0x5A00 0 { aJob 1 .primed with isOpen := true } ∧
      ¬ IsEnded { aJob 1 .primed with isOpen := true } ∧
      { aJob 1 .primed with isOpen := true }.extents.length + (15 : Byte).toNat ≤ 16 :=
  ⟨openJob_reads, by unfold LanesInRange; decide +kernel, not_lanesBusy, by decide +kernel, by decide +kernel,
    startInRange_openFields.1, paramsOf_openFields.1, startFits_openJob, by decide +kernel, by unfold AppendInRange; decide +kernel,
    carries_openJob, notEnded_open _ rfl, by decide +kernel⟩

/-- Every context live, and four jobs on G1. -/
def crowded : State :=
  { openJob with
    jobs := Vector.ofFn fun c : CtxId => some { aJob 1 .pending with tag := BitVec.ofNat 32 c.val }
    lists := State.reset.lists.set 1 [0, 1, 2, 3] }

theorem carries_ended : Carries { openJob with jobs := openJob.jobs.set 0 (some (aJob 1 (.ended .ended))) } 0x5A00 0 (aJob 1 (.ended .ended)) :=
  ⟨rfl, rfl, fun d k h => absurd h (Fin.not_lt_zero d)⟩

theorem witness_RefusedRecordsChangeNothing :
    RecordRead openJob .normal ∧ ¬ LanesInRange 64 1 0x400 ∧ ¬ LanesInRange 61 4 0x400 ∧ ¬ LanesInRange 0 0 0x400 ∧
      LanesInRange 0 4 0x400 ∧ LanesBusy openJob 0 4 ∧ 7 < (8 : Byte).toNat ∧ ¬ Aligned 0x402 ∧ ¬ StartInRange (startFields 1 8 9 2) ∧
      StartInRange (startFields 3 4 2 2) ∧ openJob.configs[(3 : GroupId)].laneCount = 0 ∧ openJob.configs[(1 : GroupId)].laneCount ≠ 0 ∧
      TagLive openJob 0x5A00 ∧ ¬ TagLive openJob 7 ∧ (∀ c : CtxId, crowded.jobs[c] ≠ none) ∧
      4 ≤ { openJob with lists := crowded.lists }.lists[(1 : GroupId)].length ∧ (∃ c : CtxId, openJob.jobs[c] = none) ∧
      ¬ AppendInRange 17 0x400 ∧ ¬ AppendInRange 0 0x400 ∧ AppendInRange 16 0x400 ∧
      Carries openJob 0x5A00 0 { aJob 1 .primed with isOpen := true } ∧
      Carries { openJob with jobs := openJob.jobs.set 0 (some (aJob 1 (.ended .ended))) } 0x5A00 0 (aJob 1 (.ended .ended)) ∧
      IsEnded (aJob 1 (.ended .ended)) ∧ (aJob 1 .primed).isOpen = false ∧
      16 < { aJob 1 .primed with isOpen := true }.extents.length + (16 : Byte).toNat := by
  refine ⟨openJob_reads, ?_, ?_, ?_, ?_, ⟨1, by decide +kernel, 3, by decide +kernel, by decide +kernel, by decide +kernel⟩,
    by decide +kernel, by decide +kernel, ?_, ?_, by decide +kernel, by decide +kernel, ⟨0, _, rfl, rfl⟩,
    not_tagLive 7 (by decide +kernel), by decide +kernel, by decide +kernel, ⟨1, by decide +kernel⟩, ?_, ?_, ?_, carries_openJob,
    carries_ended, ⟨_, rfl⟩, by decide +kernel, by decide +kernel⟩
  all_goals first
    | (unfold LanesInRange; decide +kernel)
    | (unfold StartInRange; decide +kernel)
    | (unfold AppendInRange; decide +kernel)

theorem witness_StartJobCreatesJob :
    RecordRead openJob .normal ∧ StartInRange (openFields 0) ∧ ParamsOf (openFields 0) (openParams 0) ∧ StartFits openJob 7 1 ∧
      (openFields 0).extentCount = 0 ∧ TableRead (reading (.startJob 1 7 twoExtents) openJob) .normal (.startJob 1 7 twoExtents) ∧
      (entryBytes 12 ++ entryBytes 8).length = 16 * twoExtents.extentCount ∧ ([] : List Byte).length ≠ 16 * twoExtents.extentCount ∧
      (¬ ExtentInRange (lineSize sixContexts.configs[(1 : GroupId)]) (entryOfTable (entryBytes 12 ++ entryBytes 8) 1)) ∧
      (∀ k, k < 2 → ExtentInRange (lineSize sixContexts.configs[(1 : GroupId)]) (entryOfTable (entryBytes 12 ++ entryBytes 12) k)) ∧
      ∃ c : CtxId, sixContexts.jobs[c] = none := by
  refine ⟨openJob_reads, startInRange_openFields.2, paramsOf_openFields.2, startFits_openJob, by decide +kernel,
    tableRead_reading _ _ (by decide +kernel), by decide +kernel, by decide +kernel, ?_, ?_, ⟨6, by decide +kernel⟩⟩
  all_goals (unfold ExtentInRange; decide +kernel)

theorem witness_StartJobCreatesJob_places :
    (2 ≤ sixContexts.lists[(1 : GroupId)].length) ∧ openJob.lists[(1 : GroupId)].length < 2 ∧ openJob.slotWait = [] ∧
      (openParams 0).depth ≤ freeCount openJob ∧ freeCount (waiting 4 []) < 16 := by decide +kernel

theorem witness_LaneAndProfileTablesApplyWhole :
    TableRead (reading (.configLanes 1 63 1) State.reset) .normal (.configLanes 1 63 1) ∧
      [(1 : Byte), 1, 5, 0].length = 4 * (1 : Byte).toNat ∧ ([] : List Byte).length ≠ 4 * (1 : Byte).toNat ∧
      (byteAt [1, 1, 5, 0] (4 * 0) ≤ 1 ∧ byteAt [1, 1, 5, 0] (4 * 0 + 1) ≤ 1) ∧
      ¬ (byteAt [2, 1, 5, 0] (4 * 0) ≤ 1 ∧ byteAt [2, 1, 5, 0] (4 * 0 + 1) ≤ 1) ∧
      TableRead (reading (.loadProfile 1 3) State.reset) .normal (.loadProfile 1 3) ∧
      ([0xFF, 0x0F, 1, 0] ++ List.replicate 60 0 : List Byte).length = 64 ∧
      (∀ l, l < 16 → (shortAt ([0xFF, 0x0F, 1, 0] ++ List.replicate 60 0) (4 * l)).toNat ≤ 4095) ∧
      4095 < (shortAt ([0, 0x10, 1, 0] ++ List.replicate 60 0) (4 * 0)).toNat := by
  refine ⟨tableRead_reading _ _ (by decide +kernel), ?_, ?_, ?_, ?_, tableRead_reading _ _ (by decide +kernel), ?_, ?_, ?_⟩
  all_goals decide +kernel

theorem witness_AppendedExtentsJoinTheJob :
    TableRead (reading (.appendLines 1 0x5A00 1 3 1) openJob) .normal (.appendLines 1 0x5A00 1 3 1) ∧ (entryBytes 4).length = 16 * 1 ∧
      ([] : List Byte).length ≠ 16 * 1 ∧ ExtentInRange (lineSize openJob.configs[(1 : GroupId)]) (entryOfTable (entryBytes 4) 0) ∧
      ¬ ExtentInRange (lineSize openJob.configs[(1 : GroupId)]) (entryOfTable (entryBytes 0) 0) ∧
      4294967294 + ((entriesOfTable (entryBytes 4) 1).map fun e => e.lines.toNat).sum ≤ 4294967295 ∧
      4294967295 < 4294967295 + ((entriesOfTable (entryBytes 4) 1).map fun e => e.lines.toNat).sum ∧ ¬ TagLive openJob 7 ∧
      Carries openJob 0x5A00 0 { aJob 1 .primed with isOpen := true } ∧ ¬ IsEnded { aJob 1 .primed with isOpen := true } ∧
      Carries { openJob with jobs := openJob.jobs.set 0 (some (aJob 1 (.ended .ended))) } 0x5A00 0 (aJob 1 (.ended .ended)) ∧
      IsEnded (aJob 1 (.ended .ended)) := by
  refine ⟨tableRead_reading _ _ (by decide +kernel), by decide +kernel, by decide +kernel, by unfold ExtentInRange; decide +kernel,
    by unfold ExtentInRange; decide +kernel, by decide +kernel, by decide +kernel, not_tagLive 7 (by decide +kernel), carries_openJob,
    notEnded_open _ rfl, carries_ended, ⟨_, rfl⟩⟩

/-- The state of 11.2's last row, with a job state and perhaps a pulse of G1. -/
def closing (st : JobState) (p : Pulse) : State :=
  { withJobIn 0 { aJob 1 st with isOpen := true, supplied := 4, firePos := 4, cursor := 4 } (taking State.reset) with
    pulses := State.reset.pulses.set 0 p }

theorem closing_carries (st : JobState) (p : Pulse) :
    RecordRead (closing st p) .normal ∧
      Carries (closing st p) 0x5A00 0 { aJob 1 st with isOpen := true, supplied := 4, firePos := 4, cursor := 4 } :=
  ⟨⟨1000, rfl, Nat.zero_le _⟩, rfl, rfl, fun d k h => absurd h (Fin.not_lt_zero d)⟩

theorem witness_CloseJobEndsOrFinishesJob :
    (∀ st p, RecordRead (closing st p) .normal ∧
      Carries (closing st p) 0x5A00 0 { aJob 1 st with isOpen := true, supplied := 4, firePos := 4, cursor := 4 }) ∧
      ¬ IsEnded (aJob 1 .running) ∧ { aJob 1 .running with firePos := 3 }.firePos = (aJob 1 .running).supplied ∧
      (aJob 1 .primed).firePos ≠ (aJob 1 .primed).supplied ∧
      (∀ lane : LaneId, ∀ d, pulseJob (closing .running .none).pulses[lane] ≠ some (1, d)) ∧
      pulseJob (closing .running (.active 1 2 1 0)).pulses[(0 : LaneId)] = some (1, 0) :=
  ⟨closing_carries, notEnded_open _ rfl, by decide +kernel, by decide +kernel, by decide +kernel, by decide +kernel⟩

/-- Three jobs on G1, the one at position 2 PENDING. -/
def threeJobs : State :=
  { openJob with
    jobs := ((State.reset.jobs.set 0 (some { aJob 1 .primed with isOpen := true })).set 1 (some { aJob 1 .primed with tag := 1 })).set 2
      (some { aJob 1 .pending with tag := 2 })
    lists := State.reset.lists.set 1 [0, 1, 2] }

/-- R6: the end of the job at position 0 or 1 moves the PENDING job up, and the end of the PENDING one moves none. -/
theorem test_movesUp :
    movesUp threeJobs 0 1 = [2] ∧ movesUp threeJobs 1 1 = [2] ∧ movesUp threeJobs 2 1 = [] := by decide +kernel

/-- R6, R43: after ABORT_JOB of the job at position 0 the one that comes to position 1 is granted at once. -/
theorem test_abortJob_moves_up :
    ((after (.abortJob 1 0x5A00) threeJobs).jobs[(2 : CtxId)].map Job.state) = some .primed ∧
      (after (.abortJob 1 0x5A00) threeJobs).slots[(0 : SlotId)].state = .empty 2 0 := by decide +kernel

theorem witness_AbortJobEndsJobAtOnce :
    RecordRead openJob .normal ∧ Carries openJob 0x5A00 0 { aJob 1 .primed with isOpen := true } ∧
      ¬ IsEnded { aJob 1 .primed with isOpen := true } := ⟨openJob_reads, carries_openJob, notEnded_open _ rfl⟩

/-- A group in a hold state while a record is being read. -/
def holdTaking (h : HoldState) : State := taking (heldGroup h)

theorem leadersOk_holdTaking (h : HoldState) : LeadersOk (holdTaking h) := by
  have k : LeadersOk (holdTaking .none) := by unfold LeadersOk; decide +kernel
  cases h <;> exact k

theorem witness_HoldGroupMakesHoldPending :
    (∀ h, RecordRead (holdTaking h) .normal) ∧ 3 < (4 : Word).toNat ∧ (3 : Word).toNat = (3 : GroupId).val ∧
      (holdTaking .none).configs[(0 : GroupId)].laneCount = 0 ∧ (holdTaking .none).configs[(3 : GroupId)].laneCount ≠ 0 ∧
      (holdTaking .held).groups[(3 : GroupId)].hold ≠ .none ∧ (holdTaking .none).groups[(3 : GroupId)].hold = .none ∧
      NoFollower (holdTaking .none) 3 ∧ LeadersOk (holdTaking .none) :=
  ⟨fun h => recordRead_taking _ (Nat.zero_le _), by decide +kernel, by decide +kernel, by decide +kernel, by decide +kernel,
    by decide +kernel, by decide +kernel, by unfold NoFollower; decide +kernel, leadersOk_holdTaking _⟩

/-- The state of RELEASE_GROUP's third clause: the hold has been taken and the next record is being read. -/
def afterHoldTaken : State :=
  { Ended .normal 1 .ok 0 (withHold 3 .pending (holdTaking .none)) with cp := (holdTaking .none).cp }

theorem witness_ReleaseGroupDeliversLineEvents :
    (∀ h, RecordRead (holdTaking h) .normal) ∧ 3 < (4 : Word).toNat ∧ (3 : Word).toNat = (3 : GroupId).val ∧
      (holdTaking .held).configs[(0 : GroupId)].laneCount = 0 ∧ (holdTaking .held).configs[(3 : GroupId)].laneCount ≠ 0 ∧
      NoFollower (holdTaking .held) 3 ∧ (holdTaking .none).groups[(3 : GroupId)].hold = .none ∧ RecordRead afterHoldTaken .normal ∧
      afterHoldTaken = { Ended .normal 1 .ok 0 (withHold 3 .pending (holdTaking .none)) with cp := afterHoldTaken.cp } :=
  ⟨fun h => recordRead_taking _ (Nat.zero_le _), by decide +kernel, by decide +kernel, by decide +kernel, by decide +kernel,
    by unfold NoFollower; decide +kernel, by decide +kernel, ⟨1000, rfl, Nat.zero_le _⟩, rfl⟩

/-- G2 of 7.3's example with so many parked waiters. -/
def parked (n : Nat) : State :=
  { checksChain with groups := checksChain.groups.set 2 { checksChain.groups[(2 : GroupId)] with
      waiters := List.replicate n { cmdId := 1, state := .parked } } }

theorem witness_DrainGroupAnswersOrParks :
    RecordRead (parked 4) .normal ∧ RecordRead (parked 3) .normal ∧ 3 < (4 : Word).toNat ∧ (2 : Word).toNat = (2 : GroupId).val ∧
      (parked 4).lists[(0 : GroupId)] = [] ∧ (parked 4).lists[(2 : GroupId)] ≠ [] ∧ 4 ≤ (parked 4).groups[(2 : GroupId)].waiters.length ∧
      (parked 3).groups[(2 : GroupId)].waiters.length < 4 ∧ (parked 3).run = true ∧ { parked 3 with run := false }.run = false :=
  ⟨⟨1000, rfl, Nat.zero_le _⟩, ⟨1000, rfl, Nat.zero_le _⟩, by decide +kernel, by decide +kernel, by decide +kernel, by decide +kernel,
    by decide +kernel, by decide +kernel, rfl, rfl⟩

theorem witness_DrainWaitersAnswerAfterJobEnd :
    (parked 2).jobs[(0 : CtxId)] = some (aJob 2 .primed) ∧ (parked 2).lists[(aJob 2 .primed).group] = [0] ∧ (parked 2).endQueue = [] ∧
      (parked 2).eligible = [] ∧ (∀ h : GroupId, ∀ w ∈ (parked 2).groups[h].waiters, w.state = .parked) ∧ roomOf (parked 2) ≠ 0 ∧
      roomOf { parked 2 with holding := List.replicate 7 (.response 0 .ok 0) } = 0 ∧ (1 : GroupId) ≠ (aJob 2 .primed).group := by
  decide +kernel

theorem witness_ReportGroupWritesSnapshot :
    RecordRead checksChain .normal ∧ 3 < (4 : Word).toNat ∧ ¬ Aligned 0x402 ∧ Aligned 0x404 ∧ (3 : Word).toNat = (3 : GroupId).val ∧
      checksChain.configs[(3 : GroupId)].laneCount = 0 ∧ checksChain.configs[(2 : GroupId)].laneCount ≠ 0 ∧
      (∀ c ∈ checksChain.lists[(2 : GroupId)], ∀ j, checksChain.jobs[c] = some j → ¬ FirstClass j) ∧
      fourLanes.configs[(1 : GroupId)].laneCount ≠ 0 ∧
      (∃ c ∈ fourLanes.lists[(1 : GroupId)], ∃ j, fourLanes.jobs[c] = some j ∧ FirstClass j) ∧
      fourLanes.groups[(1 : GroupId)].latched = none ∧
      (deliver 1 fourLanes).groups[(1 : GroupId)].latched = some { number := 2, generation := 6, entries := profileTwo.entries } ∧
      checksChain.lists[(2 : GroupId)][0]? = some 0 ∧ checksChain.jobs[(0 : CtxId)] = some (aJob 2 .primed) ∧
      checksChain.lists[(2 : GroupId)][1]? = none := by
  refine ⟨checksChain_reads, by decide +kernel, by decide +kernel, by decide +kernel, by decide +kernel, by decide +kernel,
    by decide +kernel, ?_, by decide +kernel, ⟨5, by decide +kernel, lineJob, by decide +kernel, .inl rfl⟩, by decide +kernel,
    by decide +kernel, by decide +kernel, by decide +kernel, by decide +kernel⟩
  intro c hc j hj
  have e : ∀ c ∈ checksChain.lists[(2 : GroupId)], checksChain.jobs[c] = some (aJob 2 .primed) := by decide +kernel
  rw [e c hc] at hj
  cases hj
  rintro (h | h) <;> cases h

/-- A drain waiter of G1 that may be answered. -/
def readyWaiter : State :=
  { State.reset with
    eligible := [1], groups := State.reset.groups.set 1 { GroupState.reset with waiters := [{ cmdId := 6, state := .ready }] } }

theorem witness_WaitingOffersArePlaced :
    roomOf relief = 0 ∧ State.reset.endQueue = [] ∧ roomOf { relief with holding := List.replicate 7 (.response 0 .ok 0) } ≠ 0 ∧
      relief.endQueue = 5 :: [] ∧ relief.jobs[(5 : CtxId)] = some { aJob 0 (.ended .aborted) with tag := 0x500 } ∧
      roomOf readyWaiter ≠ 0 ∧ readyWaiter.eligible = 1 :: [] ∧
      readyWaiter.groups[(1 : GroupId)].waiters = { cmdId := 6, state := .ready } :: [] ∧ State.reset.eligible = [] := by
  decide +kernel

theorem witness_CompletionWritePostsHead :
    State.reset.holding = [] ∧ (fullRing.producer.toNat + 1) % fullRing.size.toNat = fullRing.consumer.toNat ∧
      relief.holding = .jobEnd 0x900 9 .ended 1 2 3 4 5 :: List.replicate 7 (.response 0 .ok 0) ∧
      Config.validCompletionSize relief.comp.size = true ∧
      (relief.comp.producer.toNat + 1) % relief.comp.size.toNat ≠ relief.comp.consumer.toNat ∧ relief.comp.stopped = false ∧
      relief.inReset = none ∧ roomOf relief = 0 ∧ relief.endQueue = 5 :: [] ∧ relief.eligible = [] ∧
      { relief with endQueue := [] }.endQueue = [] ∧ { relief with eligible := [1], endQueue := [], groups := readyWaiter.groups }.eligible = [1] ∧
      readyWaiter.groups[(1 : GroupId)].waiters ≠ [] ∧
      { relief with cp := { relief.cp with state := .stopped }, run := false }.cp.state ≠ .reserving := by decide +kernel

theorem witness_CompletionWritePostsHead_order : HoldingOk relief := ⟨by decide +kernel, rfl, rfl⟩

theorem witness_StepsKeepHoldingListInOrder :
    HoldingOk { relief with pending := [.completionWrite] } ∧ ∃ t, step { relief with pending := [.completionWrite] } = .next t :=
  ⟨⟨by decide +kernel, rfl, rfl⟩, ⟨_, rfl⟩⟩

/-- The groups of 7.3's example with a CONFIG_GROUP that is accepted. -/
def configuring : State := { checksChain with pending := [.configGroup 1 3 followFields] }

theorem witness_StepsKeepSpansDisjoint : SpansOk configuring ∧ ∃ t, step configuring = .next t := by
  refine ⟨⟨by decide +kernel, ?_⟩, ⟨_, rfl⟩⟩
  have e : ∀ g h : GroupId, g ≠ h →
      configuring.configs[g].firstLane.toNat + configuring.configs[g].laneCount.toNat ≤ configuring.configs[h].firstLane.toNat ∨
        configuring.configs[h].firstLane.toNat + configuring.configs[h].laneCount.toNat ≤ configuring.configs[g].firstLane.toNat := by
    decide +kernel
  intro g h hne lane
  have k := e g h hne
  simp only [inSpan, decide_eq_true_eq]
  omega

theorem witness_StepsKeepLeadersAcyclic : LeadersOk configuring ∧ ∃ t, step configuring = .next t :=
  ⟨by unfold LeadersOk; decide +kernel, ⟨_, rfl⟩⟩

theorem witness_StepsKeepListsBounded :
    ListsOk { parked 3 with pending := [.drainGroup 1 2] } ∧ ∃ t, step { parked 3 with pending := [.drainGroup 1 2] } = .next t :=
  ⟨⟨by decide +kernel, by decide +kernel, trivial⟩, ⟨_, rfl⟩⟩

theorem witness_StepsKeepCompletionRingInOrder :
    CompletionOk { relief with pending := [.completionWrite] } ∧ ∃ t, step { relief with pending := [.completionWrite] } = .next t :=
  ⟨by unfold CompletionOk; decide +kernel, ⟨_, rfl⟩⟩

theorem witness_StepsKeepRegistersInRange :
    RegistersOk { sized 16 16 0 with pending := [.tickDivider 31] } ∧ ∃ t, step { sized 16 16 0 with pending := [.tickDivider 31] } = .next t := by
  refine ⟨⟨by decide +kernel, by decide +kernel, by decide +kernel, by decide +kernel, by decide +kernel, by decide +kernel,
    by decide +kernel, by decide +kernel, ⟨fun _ => by decide +kernel, fun h => absurd h (by decide +kernel)⟩,
    ⟨fun h => absurd rfl h, fun _ => ⟨rfl, ?_⟩⟩, by decide +kernel, by unfold FieldsInRange; decide +kernel⟩, ⟨_, rfl⟩⟩
  rintro (⟨e, h⟩ | ⟨e, a, h⟩) <;> cases h

theorem witness_TablesChangeOnlyByTheirCommands : ∃ t, exec (.nop 1) (taking State.reset) = .next t := ⟨_, rfl⟩

theorem witness_RecordRoundTrip :
    wellFormed (.closeJob 0xFFFF 0xFFFFFFFF) = true ∧ ∃ bytes, encodeRecord (.closeJob 0xFFFF 0xFFFFFFFF) = some bytes := ⟨rfl, _, rfl⟩

end Sys2Proof.Tests
end

