-- ==== Sys2Proof/Proofs/HoldGroup.lean ====
section
/-! SUPPORT. Proofs/HoldGroup.lean: the model's operations in the words of the statements (a group's record, a counter, the end of a
command), a line event of a group that nothing follows, a held group under any line event, and HOLD_GROUP (R143). -/

namespace Sys2Proof.Machine

open Sys2Proof.Claims

/-! ## The words of the statements -/

/-- The model's saturating increase is the statements' counter after one more event. -/
theorem satInc_eq_counted (x : Word) : satInc x = counted x := by
  unfold satInc satAdd counted
  by_cases h : x = 4294967295
  · subst h; rfl
  · have hx : x.toNat + 1 ≤ 4294967295 := by
      have hne : x.toNat ≠ 4294967295 := fun e => h (BitVec.eq_of_toNat_eq e)
      omega
    rw [if_pos hx, if_neg h]
    bv_omega

theorem respond_eq_ended (r : SubRing) (cmdId : Short) (status : Status) (value : Word) (s : State) :
    respond r cmdId status value s = Ended r cmdId status value s := by cases r <;> rfl

theorem configured_iff (f : GroupFields) : configured f = true ↔ f.laneCount ≠ 0 := decide_eq_true_iff

theorem withGroup_get_self (g : GroupId) (x : GroupState) (s : State) : (withGroup g x s).groups[g] = x :=
  modGroup_get_self g (fun _ => x) s

/-- Of two records written to a group the later one stands. -/
theorem withGroup_withGroup (g : GroupId) (x y : GroupState) (s : State) :
    withGroup g y (withGroup g x s) = withGroup g y s := by
  simp [withGroup]

/-- A group given the record it has is no change. -/
theorem withGroup_self (g : GroupId) (s : State) : withGroup g s.groups[g] s = s := by
  simp [withGroup]

theorem setHold_eq_withHold (g : GroupId) (h : HoldState) (s : State) : setHold g h s = withHold g h s := rfl

theorem withHold_get_self (g : GroupId) (h : HoldState) (s : State) :
    (withHold g h s).groups[g] = { s.groups[g] with hold := h } := withGroup_get_self g _ s

/-- A group given the hold state it has is no change. -/
theorem withHold_self (g : GroupId) (s : State) : withHold g s.groups[g].hold s = s := withGroup_self g s

/-- Byte 1 of a report is the code of the group's hold state (10.4). -/
theorem reportBytes_hold (s : State) (g : GroupId) : byteAt (reportBytes s g) 1 = s.groups[g].hold.code := by
  simp only [reportBytes, byteAt, List.append_assoc, List.cons_append, List.getD_cons_succ, List.getD_cons_zero]

/-! ## A line event of a group that nothing follows (R58, R62) -/

theorem leaderEvent_of_not_follows {f l : GroupId} {s : State} (own : GroupId → State → State)
    (h : followsDirect s.configs f l = false) : leaderEvent own l s f = s := by
  simp only [leaderEvent, h, Bool.false_eq_true, if_false]

/-- With no follower the line event of a group is its own event and no more. -/
theorem produceLineEvent_of_noFollower {s : State} {g : GroupId} (h : NoFollower s g) :
    produceLineEvent g s = ownEvent g s := by
  have stays : ∀ fs : List GroupId,
      fs.foldl (leaderEvent (fun f t => lineEvent 3 f t) g) (ownEvent g s) = ownEvent g s := by
    intro fs
    induction fs with
    | nil => rfl
    | cons f fs ih =>
      have hf : followsDirect (ownEvent g s).configs f g = false := by rw [(ownEvent_frame g s).configs]; exact h f
      rw [List.foldl_cons, leaderEvent_of_not_follows _ hf, ih]
  exact stays (List.finRange 4)

/-- The record of a group after a line event that its hold keeps from the job list (R61, R62). -/
def keptEvent (x : GroupState) : GroupState :=
  { x with
    hold := .held
    counters := { x.counters with
      lineEvents := counted x.counters.lineEvents
      heldEvents := counted x.counters.heldEvents } }

/-- Under PENDING and HELD a line event changes the record of its group and nothing else (R62). -/
theorem ownEvent_of_hold {s : State} {g : GroupId} (h : s.groups[g].hold ≠ .none) :
    ownEvent g s = withGroup g (keptEvent s.groups[g]) s := by
  have record : (ownEvent g s).groups[g] = keptEvent s.groups[g] := by
    rw [(ownEvent_groups g s).2.2 h, satInc_eq_counted, satInc_eq_counted]; rfl
  have written : ∃ x, ownEvent g s = withGroup g x s := by
    unfold ownEvent; extract_lets t
    have ht : t.groups[g].hold = s.groups[g].hold := by
      show (modGroup g _ s).groups[g].hold = _
      rw [modGroup_get_self]
    have onT : ∀ y, withGroup g y t = withGroup g y s := fun y => withGroup_withGroup g _ y s
    split
    · rename_i e; exact absurd (ht.symm.trans e) h
    · exact ⟨_, (withGroup_withGroup g _ _ t).trans (onT _)⟩
    · exact ⟨_, onT _⟩
  obtain ⟨x, hx⟩ := written
  rw [hx, withGroup_get_self] at record
  rw [hx, record]

/-! ## A held group under line events (R62, R64) -/

/-- The group is HELD. -/
def IsHeld (g : GroupId) (s : State) : Prop := s.groups[g].hold = .held

theorem isHeld_modGroup {g : GroupId} {s : State} (f : GroupId) {u : GroupState → GroupState} (hu : ∀ x, (u x).hold = x.hold)
    (h : IsHeld g s) : IsHeld g (modGroup f u s) := by
  unfold IsHeld
  rw [modGroup_get]
  split
  · rename_i e; subst e; exact (hu _).trans h
  · exact h

theorem isHeld_ownEvent_self {g : GroupId} {s : State} (h : s.groups[g].hold ≠ .none) : IsHeld g (ownEvent g s) := by
  unfold IsHeld; rw [ownEvent_of_hold h, withGroup_get_self]; rfl

/-- The event of any group leaves a HELD group HELD, its own event included. -/
theorem isHeld_ownEvent {g : GroupId} {s : State} (f : GroupId) (h : IsHeld g s) : IsHeld g (ownEvent f s) := by
  by_cases e : g = f
  · subst e
    refine isHeld_ownEvent_self fun free => ?_
    cases h.symm.trans free
  · obtain ⟨others, -, -⟩ := ownEvent_groups f s
    obtain ⟨-, hold, -⟩ := others g e
    exact hold.trans h

theorem isHeld_leaderEvent {g : GroupId} {s : State} {own : GroupId → State → State}
    (ho : ∀ f t, IsHeld g t → IsHeld g (own f t)) (l f : GroupId) (h : IsHeld g s) : IsHeld g (leaderEvent own l s f) := by
  have accepted : IsHeld g (acceptTrigger f s) := by refine isHeld_modGroup f ?_ h; exact fun _ => rfl
  have busy : IsHeld g (countBusy f s) := by refine isHeld_modGroup f ?_ h; exact fun _ => rfl
  unfold leaderEvent
  split
  · split
    · split
      · exact ho f _ accepted
      · exact accepted
    · exact busy
    · exact h
    · exact h
    · exact h
  · exact h

theorem isHeld_leaderEvents {g : GroupId} {own : GroupId → State → State} (ho : ∀ f t, IsHeld g t → IsHeld g (own f t))
    (l : GroupId) (fs : List GroupId) {s : State} (h : IsHeld g s) : IsHeld g (fs.foldl (leaderEvent own l) s) := by
  induction fs generalizing s with
  | nil => exact h
  | cons f fs ih => exact ih (isHeld_leaderEvent ho l f h)

theorem isHeld_lineEvent {g : GroupId} (n : Nat) {s : State} (f : GroupId) (h : IsHeld g s) : IsHeld g (lineEvent n f s) := by
  induction n generalizing f s with
  | zero => exact h
  | succ n ih => exact isHeld_leaderEvents (fun f _ => ih f) f _ (isHeld_ownEvent f h)

/-- A line event of a group whose hold is PENDING or HELD leaves it HELD, whatever its followers do, itself among them or not. -/
theorem isHeld_produceLineEvent {g : GroupId} {s : State} (h : s.groups[g].hold ≠ .none) : IsHeld g (produceLineEvent g s) :=
  isHeld_leaderEvents (fun f _ => isHeld_lineEvent 3 f) g _ (isHeld_ownEvent_self h)

/-! ## The hold commands (R143, R144) -/

theorem onRecord_of_recordRead {s : State} {r : SubRing} (f : SubRing → State → State) (h : RecordRead s r) : onRecord f s = f r s := by
  obtain ⟨e, reading, inTime⟩ := h
  exact onRecord_taken f reading inTime

theorem exec_holdGroup {s : State} {r : SubRing} (id : Short) (target : Word) (h : RecordRead s r) :
    exec (.holdGroup id target) s = .next (holdTaken id target afterHold r s) :=
  congrArg Host.Outcome.next (onRecord_of_recordRead _ h)

theorem holdTaken_badField {target : Word} (id : Short) (next : HoldState → HoldState) (r : SubRing) (s : State)
    (h : 3 < target.toNat) : holdTaken id target next r s = Ended r id .badField 0 s := by
  simp only [holdTaken, targetGroup_none h, respond_eq_ended]

theorem holdTaken_groupOff {target : Word} {g : GroupId} (id : Short) (next : HoldState → HoldState) (r : SubRing) {s : State}
    (h : target.toNat = g.val) (off : s.configs[g].laneCount = 0) : holdTaken id target next r s = Ended r id .groupOff 0 s := by
  have hc : ¬ configured s.configs[g] = true := fun c => (configured_iff _).mp c off
  simp only [holdTaken, targetGroup_some h, if_neg hc, respond_eq_ended]

theorem holdTaken_ok {target : Word} {g : GroupId} (id : Short) (next : HoldState → HoldState) (r : SubRing) {s : State}
    (h : target.toNat = g.val) (on : s.configs[g].laneCount ≠ 0) :
    holdTaken id target next r s = Ended r id .ok 0 (withHold g (next s.groups[g].hold) s) := by
  simp only [holdTaken, targetGroup_some h, if_pos ((configured_iff _).mpr on), respond_eq_ended, setHold_eq_withHold]

/-- A HOLD_GROUP leaves PENDING and HELD. -/
theorem afterHold_of_ne_none {h : HoldState} (n : h ≠ .none) : afterHold h = h := by
  cases h with
  | none => exact absurd rfl n
  | pending => rfl
  | held => rfl

/-- Settles O45: the cases of `holdTaken`, and the line event of a group that is PENDING. That the event ends HELD does not need
`LeadersOk`: a HELD group stays HELD even where a chain of leaders came back to it. -/
theorem holdGroupMakesHoldPending : Obligations.HoldGroupMakesHoldPending := by
  intro s r id target reading
  rw [exec_holdGroup id target reading]
  refine ⟨fun high => ?_, fun g hg => ⟨fun off => ?_, fun on => ⟨fun held => ?_, fun free => ?_⟩⟩⟩
  · rw [holdTaken_badField id afterHold r s high]
  · rw [holdTaken_groupOff id afterHold r hg off]
  · rw [holdTaken_ok id afterHold r hg on, afterHold_of_ne_none held, withHold_self]
  · rw [holdTaken_ok id afterHold r hg on, free]
    have record : (Ended r id .ok 0 (withHold g .pending s)).groups[g] = { s.groups[g] with hold := .pending } :=
      withHold_get_self g .pending s
    have pending : (Ended r id .ok 0 (withHold g .pending s)).groups[g].hold ≠ .none := by rw [record]; simp
    refine ⟨rfl, ?_, fun alone => ⟨keptEvent { s.groups[g] with hold := .pending }, ?_, rfl, rfl⟩, fun _ => ?_⟩
    · rw [reportBytes_hold, record]; rfl
    · rw [produceLineEvent_of_noFollower (s := Ended r id .ok 0 (withHold g .pending s)) alone, ownEvent_of_hold pending, record]
    · exact isHeld_produceLineEvent pending

end Sys2Proof.Machine
end

section
/-! SUPPORT. Proofs/CompletionRing.lean: one evaluation of the interrupt condition in the words of the statements, INT_MOD (R157),
which commands reach the completion ring at all, and the completion CONSUMER (R150). -/

namespace Sys2Proof.Machine

open Sys2Proof.Claims

/-! ## The interrupt condition and faults in the words of the statements (R158, R159, R165) -/

/-- The oldest entry's age, as R158 words it. -/
theorem oldestAged_iff (s : State) :
    oldestAged s = true ↔
      s.intMod.age ≠ 0 ∧ ∃ w ∈ s.comp.times.head?, w + s.intMod.age.toNat * s.clock.mhz ≤ s.clock.now := by
  unfold oldestAged
  cases s.comp.times with
  | nil => simp
  | cons w ws => simp

theorem conditionNow_iff (s : State) : conditionNow s = true ↔ Condition s := by
  simp only [conditionNow, Condition, Bool.or_eq_true, decide_eq_true_eq, oldestAged_iff, faultPending_iff, or_assoc]

/-- An evaluation is an `Evaluated` step from every state that has the condition and the messages of the state evaluated. -/
theorem evalInterrupt_evaluated {s u : State} (hc : u.condition = s.condition) (hl : u.link = s.link) :
    Evaluated s (evalInterrupt u) := by
  rw [evalInterrupt_eq]
  refine ⟨conditionNow_iff u, ?_⟩
  simp only [hc, hl, Bool.and_eq_true, Bool.not_eq_true']

theorem recordFault_eq_faultAfter (f : FaultReg) (kind : FaultKinds) (ring : FaultRing) (index : Short) :
    recordFault f kind ring index = faultAfter f kind ring index := by
  unfold recordFault faultAfter
  by_cases h : f.kinds = noKinds
  · have quiet : ¬ faultPending f.kinds = true := fun p => (faultPending_iff _).mp p h
    rw [if_neg quiet, if_pos h]
  · rw [if_pos ((faultPending_iff _).mpr h), if_neg h]

/-- A fault that is handed changes FAULT, and by its evaluation the condition and the messages, and nothing else. -/
theorem handFault_rest (kind : FaultKinds) (ring : FaultRing) (index : Short) (s : State) :
    { handFault kind ring index s with fault := s.fault, condition := s.condition, link := s.link } = s := by
  unfold handFault
  split
  · rfl
  · rw [evalInterrupt_eq]

theorem joinKinds_compIndex_of_set {k : FaultKinds} (h : k.compIndex = true) : joinKinds k kindCompIndex = k := by
  obtain ⟨read, index, config, comp⟩ := k
  subst h
  simp [joinKinds, kindCompIndex, noKinds]

theorem joinKinds_compIndex_of_clear {k : FaultKinds} (h : k.compIndex = false) : joinKinds k kindCompIndex ≠ k := by
  intro same
  have set := congrArg FaultKinds.compIndex same
  simp [joinKinds, kindCompIndex, noKinds, h] at set

/-! ## Host writes (R169) -/

theorem hostWrite_open {s : State} (f : State → State) (h : s.inReset = none) : hostWrite f s = f s := by
  simp [hostWrite, h]

/-- A host write is its write or, while a device reset is taken, nothing. -/
theorem hostWrite_cases (f : State → State) (s : State) : hostWrite f s = f s ∨ hostWrite f s = s := by
  unfold hostWrite
  split
  · exact .inr rfl
  · exact .inl rfl

/-! ## Engine resets (R167) -/

theorem takeEngineReset_intMod (s : State) : (takeEngineReset s).intMod = s.intMod := by
  unfold takeEngineReset
  split <;> rfl

theorem takeEngineReset_comp (s : State) : (takeEngineReset s).comp = engineResetComp s.comp := by
  unfold takeEngineReset
  split <;> rfl

/-- An ENGINE_RESET write takes an engine reset, or changes nothing. -/
theorem exec_engineReset_cases {s t : State} {v : Bool} (h : exec (.engineReset v) s = .next t) :
    v = true ∧ t = takeEngineReset s ∨ t = s := by
  cases h
  rcases hostWrite_cases (fun u => if v && !u.resetting then takeEngineReset u else u) s with taken | lost
  · rw [taken]
    split
    · rename_i e
      exact .inl ⟨(Bool.and_eq_true_iff.mp e).1, rfl⟩
    · exact .inr rfl
  · exact .inr lost

theorem exec_engineReset_taken {s : State} (h : s.inReset = none) (r : s.resetting = false) :
    exec (.engineReset true) s = .next (takeEngineReset s) := by
  refine congrArg Host.Outcome.next ((hostWrite_open _ h).trans ?_)
  simp [r]

/-! ## The unreleased count (R147, R148) -/

theorem completionOk_valid {s : State} (h : CompletionOk s) (valid : Config.validCompletionSize s.comp.size = true) :
    s.comp.producer.toNat < s.comp.size.toNat ∧ s.comp.consumer.toNat < s.comp.size.toNat ∧
      s.comp.times.length = unreleased s.comp := by
  unfold CompletionOk at h
  rwa [if_pos valid] at h

theorem completionOk_invalid {s : State} (h : CompletionOk s) (invalid : Config.validCompletionSize s.comp.size = false) :
    s.comp.producer = 0 ∧ s.comp.consumer = 0 ∧ s.comp.times = [] := by
  unfold CompletionOk at h
  rwa [if_neg (by simp [invalid])] at h

theorem unreleased_lt_size {c : CompletionRing} (h : 0 < c.size.toNat) : unreleased c < c.size.toNat := Nat.mod_lt _ h

theorem unreleased_of_indices_zero {c : CompletionRing} (hp : c.producer = 0) (hc : c.consumer = 0) : unreleased c = 0 := by
  simp [unreleased, hp, hc]

/-- A ring never holds SIZE unreleased entries: at most SIZE − 1 (R148). -/
theorem unreleased_le_size_sub_one {s : State} (h : CompletionOk s) : unreleased s.comp ≤ s.comp.size.toNat - 1 := by
  cases valid : Config.validCompletionSize s.comp.size with
  | true =>
    obtain ⟨hp, -, -⟩ := completionOk_valid h valid
    have := unreleased_lt_size (c := s.comp) (by omega)
    omega
  | false =>
    obtain ⟨hp, hc, -⟩ := completionOk_invalid h valid
    rw [unreleased_of_indices_zero hp hc]
    exact Nat.zero_le _

/-! ## INT_MOD (R157) -/

theorem exec_intMod {s : State} (threshold : Byte) (age : Short) (h : s.inReset = none) :
    exec (.intMod threshold age) s = .next (evalInterrupt
      { s with intMod := { threshold := if threshold = 0 then 1 else threshold, age := age } }) :=
  congrArg Host.Outcome.next (hostWrite_open _ h)

/-- Settles O15: one evaluation of the condition for the write; a count that stays below SIZE for the THRESHOLD it never meets. -/
theorem intModWriteStoresAndEvaluates : Obligations.IntModWriteStoresAndEvaluates := by
  refine ⟨⟨rfl, rfl⟩, fun s threshold age ready => ?_, fun s t v h => ?_, fun s ok far _ cond => ?_, fun _ _ => rfl⟩
  · refine ⟨_, exec_intMod threshold age ready, ?_, evalInterrupt_evaluated rfl rfl, ?_⟩ <;> rw [evalInterrupt_eq]
  · rcases exec_engineReset_cases h with ⟨-, rfl⟩ | rfl
    · exact takeEngineReset_intMod s
    · rfl
  · have few := unreleased_le_size_sub_one ok
    rcases cond with reached | aged | fault
    · omega
    · exact .inl aged
    · exact .inr fault

/-! ## What keeps the completion ring: the shared operations -/

@[simp] theorem evalInterrupt_comp (s : State) : (evalInterrupt s).comp = s.comp := by rw [evalInterrupt_eq]

@[simp] theorem handFault_comp (kind : FaultKinds) (ring : FaultRing) (index : Short) (s : State) :
    (handFault kind ring index s).comp = s.comp := by
  unfold handFault
  split
  · rfl
  · rw [evalInterrupt_comp]

@[simp] theorem toTick_comp (k : Nat) (s : State) : (toTick k s).comp = s.comp := by
  have e := congrArg State.comp (toTick_spec k s).1; exact e

@[simp] theorem toMoment_comp (m : Nat) (s : State) : (toMoment m s).comp = s.comp := by
  have e := congrArg State.comp (toMoment_spec m s).1; exact e

@[simp] theorem produceLineEvent_comp (g : GroupId) (s : State) : (produceLineEvent g s).comp = s.comp :=
  (produceLineEvent_frame g s).comp

@[simp] theorem endJob_comp (c : CtxId) (st : EndStatus) (s : State) : (endJob c st s).comp = s.comp := (endJob_frame c st s).comp

@[simp] theorem grant_comp (s : State) : (grant s).comp = s.comp := (grant_frame s).comp

@[simp] theorem armTest_comp (c : CtxId) (s : State) : (armTest c s).comp = s.comp := (armTest_frame c s).comp

@[simp] theorem settleLine_comp (c : CtxId) (n : Nat) (s : State) : (settleLine c n s).comp = s.comp :=
  (settleLine_frame c n s).comp

@[simp] theorem ringIndexFault_comp (r : SubRing) (s : State) : (ringIndexFault r s).comp = s.comp := handFault_comp _ _ _ s

@[simp] theorem ringReadFault_comp (r : SubRing) (s : State) : (ringReadFault r s).comp = s.comp := handFault_comp _ _ _ s

@[simp] theorem takeDecision_comp (s : State) : (takeDecision s).comp = s.comp := by
  unfold takeDecision
  split
  · split
    · exact ringIndexFault_comp _ s
    · split
      · exact ringIndexFault_comp _ s
      · split <;> rfl
  · rfl

@[simp] theorem enterLooking_comp (s : State) : (enterLooking s).comp = s.comp := takeDecision_comp _

@[simp] theorem takeReservation_comp (s : State) : (takeReservation s).comp = s.comp := by
  unfold takeReservation
  split
  · exact enterLooking_comp _
  · rfl

@[simp] theorem leaveStopped_comp (s : State) : (leaveStopped s).comp = s.comp := by
  unfold leaveStopped
  split
  · split
    · exact enterLooking_comp s
    · rfl
  · rfl

@[simp] theorem respond_comp (r : SubRing) (id : Short) (status : Status) (value : Word) (s : State) :
    (respond r id status value s).comp = s.comp := rfl

@[simp] theorem endParked_comp (r : SubRing) (s : State) : (endParked r s).comp = s.comp := by
  unfold endParked
  extract_lets t
  split
  · exact enterLooking_comp t
  · rfl

theorem hostWrite_comp {f : State → State} (hf : ∀ t, (f t).comp = t.comp) (s : State) : (hostWrite f s).comp = s.comp := by
  rcases hostWrite_cases f s with e | e <;> rw [e]
  exact hf s

theorem onRecord_comp {f : SubRing → State → State} (hf : ∀ r t, (f r t).comp = t.comp) (s : State) :
    (onRecord f s).comp = s.comp := by
  unfold onRecord
  split
  · split
    · exact hf _ s
    · rfl
  all_goals rfl

theorem withJob_comp {f : CtxId → Job → State → State} (hf : ∀ c j t, (f c j t).comp = t.comp) (r : SubRing) (id : Short)
    (tag : Word) (s : State) : (withJob r id tag f s).comp = s.comp := by
  unfold withJob
  split
  · rfl
  · split
    · rfl
    · split
      · exact hf _ _ s
      · rfl

@[simp] theorem noteVoidRead_comp (s : State) : (noteVoidRead s).comp = s.comp := rfl

/-! ## What keeps the completion ring: the records of commands (R114, R115) -/

@[simp] theorem createJob_comp (c : CtxId) (tag : Word) (p : JobParams) (es : List Extent) (s : State) :
    (createJob c tag p es s).comp = s.comp := by
  unfold createJob
  split
  · exact grant_comp _
  · rfl

@[simp] theorem applyAppend_comp (c : CtxId) (es : List Extent) (s : State) : (applyAppend c es s).comp = s.comp :=
  armTest_comp c _

@[simp] theorem applyClose_comp (c : CtxId) (j : Job) (s : State) : (applyClose c j s).comp = s.comp := by
  unfold applyClose
  extract_lets t
  have closing : (if j.firePos = j.supplied then endJob c .ended t else t).comp = s.comp := by
    split
    · exact endJob_comp c .ended t
    · rfl
  cases j.state with
  | pending | waiting | primed => exact closing
  | running =>
    dsimp only
    split
    · split
      · exact endJob_comp c .ended t
      · rfl
    · rfl
  | armed | finishing | ended => rfl

theorem cutUncounted_comp (j : Job) (s : State) : (cutUncounted j s).comp = s.comp := by
  unfold cutUncounted
  split <;> rfl

@[simp] theorem applyAbort_comp (c : CtxId) (j : Job) (s : State) : (applyAbort c j s).comp = s.comp :=
  (endJob_comp c .aborted _).trans (cutUncounted_comp j s)

theorem configGroupTaken_comp (id : Short) (target : Word) (f : GroupFields) (r : SubRing) (s : State) :
    (configGroupTaken id target f r s).comp = s.comp := by
  unfold configGroupTaken
  split
  · rfl
  · split <;> rfl

theorem configLanesTaken_comp (id : Short) (firstLane count : Byte) (address : Addr) (r : SubRing) (s : State) :
    (configLanesTaken id firstLane count address r s).comp = s.comp := by
  unfold configLanesTaken
  split <;> rfl

theorem loadProfileTaken_comp (id : Short) (profile : Byte) (address : Addr) (r : SubRing) (s : State) :
    (loadProfileTaken id profile address r s).comp = s.comp := by
  unfold loadProfileTaken
  split
  · rfl
  · split <;> rfl

theorem startAtOnce_comp (id : Short) (tag : Word) (p : JobParams) (r : SubRing) (s : State) :
    (startAtOnce id tag p r s).comp = s.comp := by
  unfold startAtOnce
  split
  · rfl
  · rw [respond_comp, createJob_comp]

theorem startJobTaken_comp (id : Short) (tag : Word) (f : StartFields) (r : SubRing) (s : State) :
    (startJobTaken id tag f r s).comp = s.comp := by
  unfold startJobTaken
  split
  · rfl
  · split
    · split
      · exact startAtOnce_comp id tag _ r s
      · rfl
    · rfl

theorem appendToJob_comp (id : Short) (tag : Word) (count : Byte) (address : Addr) (r : SubRing) (c : CtxId) (j : Job) (s : State) :
    (appendToJob id tag count address r c j s).comp = s.comp := by
  unfold appendToJob
  split
  · rfl
  · split <;> rfl

theorem appendLinesTaken_comp (id : Short) (tag : Word) (count : Byte) (address : Addr) (r : SubRing) (s : State) :
    (appendLinesTaken id tag count address r s).comp = s.comp := by
  unfold appendLinesTaken
  split
  · exact withJob_comp (appendToJob_comp id tag count address r) r id tag s
  · rfl

theorem closeOpenJob_comp (id : Short) (r : SubRing) (c : CtxId) (j : Job) (s : State) :
    (closeOpenJob id r c j s).comp = s.comp := by
  unfold closeOpenJob
  split
  · rfl
  · rw [respond_comp, applyClose_comp]

theorem holdTaken_comp (id : Short) (target : Word) (next : HoldState → HoldState) (r : SubRing) (s : State) :
    (holdTaken id target next r s).comp = s.comp := by
  unfold holdTaken
  split
  · rfl
  · split <;> rfl

theorem drainTaken_comp (id : Short) (target : Word) (r : SubRing) (s : State) : (drainTaken id target r s).comp = s.comp := by
  unfold drainTaken
  split
  · rfl
  · split
    · rfl
    · split
      · exact endParked_comp r _
      · rfl

theorem reportTaken_comp (id : Short) (target : Word) (clear : Bool) (address : Addr) (r : SubRing) (s : State) :
    (reportTaken id target clear address r s).comp = s.comp := by
  unfold reportTaken
  split
  · rfl
  · split
    · rw [respond_comp]
      cases clear <;> rfl
    · rfl

theorem applyTable_comp (r : SubRing) (a : AuxCommand) (table : List Byte) (s : State) :
    (applyTable r a table s).comp = s.comp := by
  unfold applyTable
  cases a with
  | configLanes | loadProfile => dsimp only; split <;> rfl
  | startJob =>
    dsimp only
    split
    · rfl
    · split
      · rfl
      · rw [respond_comp, createJob_comp]
  | appendLines =>
    dsimp only
    split
    · rfl
    · split
      · rfl
      · split
        · rfl
        · split
          · rfl
          · split
            · rw [respond_comp, applyAppend_comp]
            · rfl

/-! ## What keeps the completion ring: events (R21, R56, R68, R79, R97 to R100) -/

theorem writeRun_comp (v : Bool) (s : State) : (writeRun v s).comp = s.comp := by
  have start : (startRun s).comp = s.comp := by
    unfold startRun
    split
    · exact handFault_comp _ _ _ s
    · exact leaveStopped_comp _
  have clear : (clearRun s).comp = s.comp := by
    unfold clearRun
    extract_lets t
    split <;> rfl
  unfold writeRun
  split
  · rfl
  · split
    · split
      · rfl
      · exact start
    · exact clear

theorem seeTrigger_comp (g : GroupId) (s : State) : (seeTrigger g s).comp = s.comp := by
  unfold seeTrigger
  split
  · rfl
  · split
    · rfl
    · split
      · exact produceLineEvent_comp g _
      · rfl
  all_goals rfl

theorem reportPulseEnd_comp (g : GroupId) (c : CtxId) (s : State) : (reportPulseEnd g c s).comp = s.comp := by
  unfold reportPulseEnd
  split
  · exact endJob_comp c .ended s
  · rfl

theorem issueLineRead_comp (e : EntryId) (c : CtxId) (j : Job) (i : SlotId) (s : State) :
    (issueLineRead e c j i s).comp = s.comp := by
  simp only [issueLineRead, modJob_comp, setLastServed_comp, setEntry_comp, setSlot_comp, emit_comp]

theorem issueDecision_comp (s : State) : (issueDecision s).comp = s.comp := by
  unfold issueDecision
  split
  · split
    · exact issueLineRead_comp _ _ _ _ s
    · rfl
  · rfl

@[simp] theorem freeEntry_comp (e : EntryId) (s : State) : (freeEntry e s).comp = s.comp := by
  unfold freeEntry
  split <;> rfl

theorem fetchFault_comp (c : CtxId) (n : Nat) (s : State) : (fetchFault c n s).comp = s.comp := by
  unfold fetchFault
  split
  · exact grant_comp s
  · split
    · exact (endJob_comp c _ _).trans (cutUncounted_comp _ s)
    · exact grant_comp s

theorem fillSlot_comp (i : SlotId) (c : CtxId) (k n : Nat) (data : List Byte) (s : State) :
    (fillSlot i c k n data s).comp = s.comp :=
  (armTest_comp c _).trans (settleLine_comp c n _)

theorem failRead_comp (e : EntryId) (read : LineRead) (s : State) : (failRead e read s).comp = s.comp := by
  unfold failRead
  extract_lets t
  have freed : t.comp = s.comp := freeEntry_comp e s
  split
  · exact freed
  · split
    · exact (fetchFault_comp _ _ _).trans freed
    · exact (fetchFault_comp _ _ _).trans freed
    · exact (grant_comp _).trans freed
    all_goals exact freed

theorem placeJobEnd_comp (s : State) : (placeJobEnd s).comp = s.comp := (placeJobEnd_frame s).comp

theorem placeDrain_comp (s : State) : (placeDrain s).comp = s.comp := (placeDrain_frame s).comp

/-- From an operation that keeps the completion ring to the outcome of the command that is this operation. -/
theorem comp_of_next {u s t : State} (h : (Host.Outcome.next u : Result) = .next t) (k : u.comp = s.comp) : t.comp = s.comp := by
  cases h
  exact k

theorem takeData_comp {e : EntryId} {read : LineRead} {data : List Byte} {s t : State} (h : takeData e read data s = .next t) :
    t.comp = s.comp := by
  have freed : (freeEntry e s).comp = s.comp := freeEntry_comp e s
  unfold takeData at h
  extract_lets u at h
  split at h
  · exact comp_of_next h freed
  · split at h
    · split at h
      · exact comp_of_next h ((fillSlot_comp _ _ _ _ data u).trans freed)
      · cases h
    · exact comp_of_next h ((settleLine_comp _ _ _).trans freed)
    · exact comp_of_next h ((grant_comp _).trans freed)
    all_goals exact comp_of_next h freed

/-! ## The commands that reach the completion ring (R147, R148, R150, R167, R169) -/

/-- The commands that can write a field of the completion ring. -/
def reachesComp : Instr → Bool
  | .deviceReset | .engineReset _ | .completionBase _ _ | .completionSize _ | .consumer _ | .completionWrite => true
  | _ => false

/-- Every other host write leaves the completion ring as it is. -/
theorem exec_hostWrite_comp {c : Instr} {s t : State} (host : hostWriteCommand c = true) (k : reachesComp c = false)
    (h : exec c s = .next t) : t.comp = s.comp := by
  cases c with
  | engineReset | completionBase | completionSize | consumer => cases k
  | run v => exact comp_of_next h (hostWrite_comp (writeRun_comp v) s)
  | fetchLimit | tickDivider =>
    refine comp_of_next h (hostWrite_comp (fun u => ?_) s)
    rfl
  | faultClear | intMod =>
    refine comp_of_next h (hostWrite_comp (fun u => ?_) s)
    exact evalInterrupt_comp _
  | submissionBase | submissionSize =>
    refine comp_of_next h (hostWrite_comp (fun u => ?_) s)
    split
    · exact modCp_comp _ u
    · rfl
  | producer =>
    refine comp_of_next h (hostWrite_comp (fun u => ?_) s)
    exact takeDecision_comp _
  | registerWrite => exact comp_of_next h rfl
  | _ => cases host

/-- The record of a command leaves the completion ring as it is: its response goes to the holding list (R116). -/
theorem exec_recordAnswer_comp {c : Instr} {s t : State} (record : recordAnswer c = true) (h : exec c s = .next t) :
    t.comp = s.comp := by
  cases c with
  | nop id => exact comp_of_next h (onRecord_comp (fun r u => respond_comp r id .ok 0 u) s)
  | unknownOpcode opcode id =>
    change execUnknownOpcode opcode id s = _ at h
    unfold execUnknownOpcode at h
    split at h
    · cases h
    · exact comp_of_next h (onRecord_comp (fun r u => respond_comp r id .badField 0 u) s)
  | configGroup id target f => exact comp_of_next h (onRecord_comp (configGroupTaken_comp id target f) s)
  | configLanes id first count a => exact comp_of_next h (onRecord_comp (configLanesTaken_comp id first count a) s)
  | loadProfile id p a => exact comp_of_next h (onRecord_comp (loadProfileTaken_comp id p a) s)
  | startJob id tag f => exact comp_of_next h (onRecord_comp (startJobTaken_comp id tag f) s)
  | appendLines id tag count a => exact comp_of_next h (onRecord_comp (appendLinesTaken_comp id tag count a) s)
  | closeJob id tag => exact comp_of_next h (onRecord_comp (fun r => withJob_comp (closeOpenJob_comp id r) r id tag) s)
  | abortJob id tag =>
    refine comp_of_next h (onRecord_comp (fun r => withJob_comp (fun c j u => ?_) r id tag) s)
    rw [respond_comp, applyAbort_comp]
  | holdGroup id target => exact comp_of_next h (onRecord_comp (holdTaken_comp id target afterHold) s)
  | releaseGroup id target => exact comp_of_next h (onRecord_comp (holdTaken_comp id target afterRelease) s)
  | drainGroup id target => exact comp_of_next h (onRecord_comp (drainTaken_comp id target) s)
  | reportGroup id target clear a => exact comp_of_next h (onRecord_comp (reportTaken_comp id target clear a) s)
  | _ => cases record

theorem execDeviceResetComplete_comp {s t : State} (h : execDeviceResetComplete s = .next t) : t.comp = s.comp := by
  unfold execDeviceResetComplete at h
  split at h
  · exact comp_of_next h rfl
  · exact comp_of_next h (toMoment_comp _ s)

theorem execFetchDataAnswer_comp {e : EntryId} {data : List Byte} {s t : State} (h : execFetchDataAnswer e data s = .next t) :
    t.comp = s.comp := by
  unfold execFetchDataAnswer at h
  split at h
  · exact comp_of_next h rfl
  · split at h
    · exact takeData_comp h
    · exact comp_of_next h rfl

theorem execAuxiliaryReadData_comp {data : List Byte} {s t : State} (h : execAuxiliaryReadData data s = .next t) :
    t.comp = s.comp := by
  unfold execAuxiliaryReadData at h
  split at h
  · split at h
    · split at h
      · exact comp_of_next h (applyTable_comp _ _ data s)
      · cases h
    · exact comp_of_next h rfl
  all_goals exact comp_of_next h rfl

/-- Every other event leaves the completion ring as it is. -/
theorem exec_event_comp {c : Instr} {s t : State} (host : hostWriteCommand c = false) (record : recordAnswer c = false)
    (k : reachesComp c = false) (h : exec c s = .next t) : t.comp = s.comp := by
  cases c with
  | deviceReset | completionWrite => cases k
  | deviceResetComplete => exact execDeviceResetComplete_comp h
  | trigger g edge tick =>
    refine comp_of_next h ?_
    split
    · exact (seeTrigger_comp g _).trans (toTick_comp tick s)
    · exact toTick_comp tick s
  | periodEnd g | countdownExpiry g =>
    refine comp_of_next h ?_
    split
    · exact (produceLineEvent_comp g _).trans (toTick_comp _ s)
    all_goals rfl
  | pulseStart lane =>
    refine comp_of_next h ?_
    split
    · exact toTick_comp _ s
    all_goals rfl
  | pulseEnd lane =>
    refine comp_of_next h ?_
    split
    · exact (reportPulseEnd_comp _ _ _).trans (toTick_comp _ s)
    all_goals rfl
  | slotGrant => exact comp_of_next h (grant_comp s)
  | fetchIssue => exact comp_of_next h (issueDecision_comp s)
  | fetchDataAnswer => exact execFetchDataAnswer_comp h
  | fetchErrorAnswer e =>
    refine comp_of_next h ?_
    split
    · rfl
    · split
      · exact failRead_comp e _ s
      · rfl
  | fetchExpiry e =>
    refine comp_of_next h ?_
    split
    · rfl
    · rw [failRead_comp]
      exact toMoment_comp _ s
  | lateAnswer | voidReadAnswer => exact comp_of_next h rfl
  | reservation => exact comp_of_next h (takeReservation_comp s)
  | takeDecision => exact comp_of_next h (takeDecision_comp s)
  | recordReadError => exact comp_of_next h (onRecord_comp ringReadFault_comp s)
  | recordReadExpiry =>
    refine comp_of_next h ?_
    split
    · rw [ringReadFault_comp, noteVoidRead_comp, toMoment_comp]
    all_goals rfl
  | auxiliaryReadData => exact execAuxiliaryReadData_comp h
  | auxiliaryReadError =>
    refine comp_of_next h ?_
    split
    · split <;> rfl
    all_goals rfl
  | auxiliaryReadExpiry =>
    refine comp_of_next h ?_
    split
    · rw [respond_comp, noteVoidRead_comp, toMoment_comp]
    all_goals rfl
  | jobEndPlacement => exact comp_of_next h (placeJobEnd_comp s)
  | drainResponse => exact comp_of_next h (placeDrain_comp s)
  | ageExpiry =>
    refine comp_of_next h ?_
    split
    · rfl
    · split
      · rfl
      · exact (evalInterrupt_comp _).trans (toMoment_comp _ s)
  | nop | unknownOpcode | configGroup | configLanes | loadProfile | startJob => cases record
  | appendLines | closeJob | abortJob | holdGroup | releaseGroup | drainGroup | reportGroup => cases record
  | _ => cases host

/-- A command that is none of `reachesComp` leaves the completion ring as it is. -/
theorem exec_comp {c : Instr} {s t : State} (k : reachesComp c = false) (h : exec c s = .next t) : t.comp = s.comp := by
  cases host : hostWriteCommand c with
  | true => exact exec_hostWrite_comp host k h
  | false =>
    cases record : recordAnswer c with
    | true => exact exec_recordAnswer_comp record h
    | false => exact exec_event_comp host record k h

/-! ## The completion CONSUMER (R150) -/

/-- The number of entries a CONSUMER write passes, as R150 counts it. -/
theorem passedEntries_eq_emod {c : CompletionRing} (v : Short) (h : c.consumer.toNat < c.size.toNat) :
    (passedEntries c v : Int) = ((v.toNat : Int) - c.consumer.toNat) % c.size.toNat := by
  have shift : ((v.toNat + c.size.toNat - c.consumer.toNat : Nat) : Int) = (v.toNat : Int) - c.consumer.toNat + c.size.toNat := by
    omega
  rw [passedEntries, Int.natCast_emod, shift, Int.add_emod_right]

/-- A CONSUMER write is taken in two cases: 0 with an invalid SIZE, and an index of the ring within the written span. -/
theorem consumerOk_iff {s : State} (v : Short) (ok : CompletionOk s) :
    consumerOk s.comp v = true ↔
      (Config.validCompletionSize s.comp.size = false ∧ v = 0) ∨
      (Config.validCompletionSize s.comp.size = true ∧ v.toNat < s.comp.size.toNat ∧
        ((v.toNat : Int) - s.comp.consumer.toNat) % s.comp.size.toNat ≤ (unreleased s.comp : Int)) := by
  cases valid : Config.validCompletionSize s.comp.size with
  | true =>
    obtain ⟨-, inRing, -⟩ := completionOk_valid ok valid
    simp [consumerOk, valid, ← passedEntries_eq_emod v inRing]
  | false => simp [consumerOk, valid]

theorem released_valid {c : CompletionRing} (v : Short) (valid : Config.validCompletionSize c.size = true)
    (h : c.consumer.toNat < c.size.toNat) :
    released c v = { c with
      consumer := v
      times := c.times.drop (((v.toNat : Int) - c.consumer.toNat) % c.size.toNat).toNat } := by
  rw [released, if_pos valid, ← passedEntries_eq_emod v h, Int.toNat_natCast]

theorem released_invalid {c : CompletionRing} (v : Short) (invalid : Config.validCompletionSize c.size = false) :
    released c v = c := by
  simp [released, invalid]

theorem exec_consumer_stopped {s : State} (v : Short) (ready : s.inReset = none) (stopped : s.comp.stopped = true) :
    exec (.consumer v) s = .next s :=
  congrArg Host.Outcome.next ((hostWrite_open _ ready).trans (if_pos stopped))

theorem exec_consumer_released {s : State} (v : Short) (ready : s.inReset = none) (posting : s.comp.stopped = false)
    (ok : consumerOk s.comp v = true) :
    exec (.consumer v) s = .next (evalInterrupt { s with comp := released s.comp v }) := by
  refine congrArg Host.Outcome.next ((hostWrite_open _ ready).trans ?_)
  simp [writeConsumer, posting, ok]

/-- Posting to the completion ring is stopped, and nothing else changes. -/
def stopPosting (s : State) : State := { s with comp := { s.comp with stopped := true } }

/-- A completion index fault: posting stops, and the fault is handed to Device Control. -/
theorem exec_consumer_fault {s : State} (v : Short) (ready : s.inReset = none) (posting : s.comp.stopped = false)
    (bad : ¬ consumerOk s.comp v = true) :
    exec (.consumer v) s =
      .next (handFault kindCompIndex .completion v (stopPosting s)) := by
  refine congrArg Host.Outcome.next ((hostWrite_open _ ready).trans ?_)
  simp [writeConsumer, stopPosting, posting, bad]

/-- With COMP_INDEX clear the fault of a stopped ring is recorded and evaluated (R165). -/
theorem handFault_compIndex_clear {s : State} (v : Short) (clear : s.fault.kinds.compIndex = false) :
    (handFault kindCompIndex .completion v (stopPosting s)).fault = faultAfter s.fault kindCompIndex .completion v ∧
      Evaluated s (handFault kindCompIndex .completion v (stopPosting s)) := by
  rw [handFault_new kindCompIndex .completion v (stopPosting s) (joinKinds_compIndex_of_clear clear), recordFault_eq_faultAfter]
  refine ⟨?_, evalInterrupt_evaluated rfl rfl⟩
  rw [evalInterrupt_eq]
  rfl

/-! ## While posting is stopped (R150) -/

theorem mayPost_of_stopped {s : State} (h : s.comp.stopped = true) : mayPost s = false := by simp [mayPost, h]

theorem exec_completionWrite_stopped {s : State} (h : s.comp.stopped = true) : exec .completionWrite s = .next s := by
  refine congrArg Host.Outcome.next ?_
  split
  · rfl
  · rw [mayPost_of_stopped h]; rfl

/-- No command but the two resets ends the stop. -/
theorem exec_stopped {c : Instr} {s t : State} (stopped : s.comp.stopped = true) (h : exec c s = .next t) :
    t.comp.stopped = true ∨ c = .engineReset true ∨ c = .deviceReset := by
  have keep (f : State → State) (hf : (f s).comp.stopped = true) : (hostWrite f s).comp.stopped = true := by
    rcases hostWrite_cases f s with e | e <;> rw [e]
    · exact hf
    · exact stopped
  cases c with
  | deviceReset => exact .inr (.inr rfl)
  | engineReset v =>
    rcases exec_engineReset_cases h with ⟨rfl, -⟩ | rfl
    · exact .inr (.inl rfl)
    · exact .inl stopped
  | completionBase half v =>
    cases h
    refine .inl (keep _ ?_)
    dsimp only
    split <;> exact stopped
  | completionSize v =>
    cases h
    refine .inl (keep _ ?_)
    dsimp only
    split
    · rw [evalInterrupt_comp]; exact stopped
    · exact stopped
  | consumer v =>
    cases h
    refine .inl (keep _ ?_)
    rw [writeConsumer, if_pos stopped]
    exact stopped
  | completionWrite =>
    cases (exec_completionWrite_stopped stopped).symm.trans h
    exact .inl stopped
  | _ => exact .inl (by rw [exec_comp rfl h]; exact stopped)

/-- An engine reset resumes posting (R149). -/
theorem engineResetComp_stopped (c : CompletionRing) : (engineResetComp c).stopped = false := rfl

/-- Settles O14: the three branches of `writeConsumer` for the rows of R150, and for the end of the stop the frame of every command on
the completion ring. -/
theorem consumerWriteReleasesOrFaults : Obligations.ConsumerWriteReleasesOrFaults := by
  refine ⟨fun s v ready ok => ⟨exec_consumer_stopped v ready, fun posting invalid zero => ?_,
    fun posting valid below within => ?_, fun posting notZero notWithin => ?_⟩, fun s => exec_completionWrite_stopped,
    fun c s t => exec_stopped, fun s t reset => ?_⟩
  · have good := (consumerOk_iff v ok).mpr (.inl ⟨invalid, zero⟩)
    refine ⟨_, exec_consumer_released v ready posting good, ?_, evalInterrupt_evaluated rfl rfl, ?_⟩ <;>
      rw [evalInterrupt_eq, released_invalid v invalid]
  · have good := (consumerOk_iff v ok).mpr (.inr ⟨valid, below, within⟩)
    obtain ⟨-, inRing, -⟩ := completionOk_valid ok valid
    refine ⟨_, exec_consumer_released v ready posting good, evalInterrupt_evaluated rfl rfl, ?_, ?_⟩
    · rw [evalInterrupt_comp, released_valid v valid inRing]
    · rw [evalInterrupt_eq]
  · have bad : ¬ consumerOk s.comp v = true := fun good => ((consumerOk_iff v ok).mp good).elim notZero notWithin
    refine ⟨_, exec_consumer_fault v ready posting bad, handFault_comp _ _ _ _, fun clear => ?_, fun set => ?_, ?_⟩
    · exact handFault_compIndex_clear v clear
    · rw [handFault_same kindCompIndex .completion v (stopPosting s) (joinKinds_compIndex_of_set set)]
      exact ⟨rfl, rfl, rfl⟩
    · exact congrArg (fun u : State => { u with comp := s.comp }) (handFault_rest kindCompIndex .completion v (stopPosting s))
  · rcases reset with h | ⟨ready, idle, h⟩
    · cases h
      rfl
    · cases (exec_engineReset_taken ready idle).symm.trans h
      rw [takeEngineReset_comp, engineResetComp_stopped]

end Sys2Proof.Machine
end

section
/-! SUPPORT. Proofs/DeviceControl.lean: what a host write of FAULT leaves in it (R166), and IDENT (R161). -/

namespace Sys2Proof.Machine

open Sys2Proof.Claims

/-! ## FAULT_CLEAR (R166) -/

/-- With the set emptied, FAULT is as at reset: RING is none and INDEX is 0. -/
theorem clearedFault_of_emptied {f : FaultReg} {written : FaultKinds} (h : dropKinds f.kinds written = noKinds) :
    clearedFault f written = FaultReg.reset := by
  have quiet : ¬ faultPending (dropKinds f.kinds written) = true := fun p => (faultPending_iff _).mp p h
  rw [clearedFault, if_neg quiet]

/-- With a kind left, RING and INDEX stay. -/
theorem clearedFault_of_left {f : FaultReg} {written : FaultKinds} (h : dropKinds f.kinds written ≠ noKinds) :
    clearedFault f written = { f with kinds := dropKinds f.kinds written } := by
  rw [clearedFault, if_pos ((faultPending_iff _).mpr h)]

@[simp] theorem clearedFault_kinds (f : FaultReg) (written : FaultKinds) :
    (clearedFault f written).kinds = dropKinds f.kinds written := by
  by_cases h : dropKinds f.kinds written = noKinds
  · rw [clearedFault_of_emptied h, h]
    rfl
  · rw [clearedFault_of_left h]

@[simp] theorem evalInterrupt_fault (s : State) : (evalInterrupt s).fault = s.fault := by rw [evalInterrupt_eq]

theorem exec_faultClear {s : State} (written : FaultKinds) (h : s.inReset = none) :
    exec (.faultClear written) s = .next (evalInterrupt { s with fault := clearedFault s.fault written }) :=
  congrArg Host.Outcome.next (hostWrite_open _ h)

/-- Settles O10: one evaluation of the condition after the write; whether a kind is left decides RING and INDEX. -/
theorem faultClearRemovesWrittenKinds : Obligations.FaultClearRemovesWrittenKinds := by
  intro s w ready
  refine ⟨_, exec_faultClear w ready, ?_⟩
  rw [evalInterrupt_fault, clearedFault_kinds]
  have member (k written : Bool) : (k && !written) = true ↔ k = true ∧ written = false := by
    rw [Bool.and_eq_true, Bool.not_eq_true']
  refine ⟨member _ _, member _ _, member _ _, member _ _, fun emptied => ?_, fun left => ?_, evalInterrupt_evaluated rfl rfl, ?_⟩
  · rw [clearedFault_of_emptied emptied]
    exact ⟨rfl, rfl⟩
  · rw [clearedFault_of_left left]
    exact ⟨rfl, rfl⟩
  · rw [evalInterrupt_eq]

/-! ## IDENT (R161) -/

/-- Where the host port takes a read, the first word of the window is IDENT, whatever else the state holds. -/
theorem readWindow_ident {s : State} (h : s.inReset = none) : readWindow s 0x00 = some Config.identWord := by
  simp [readWindow, h]

/-- Settles O5: the read gives the one word `Config.identWord`, and its nine fields are those of 10.5. -/
theorem identIsConstantAndNamesCapacities : Obligations.IdentIsConstantAndNamesCapacities := by
  refine ⟨Config.identWord, fun s ready => readWindow_ident ready, ?_⟩
  decide

end Sys2Proof.Machine
end

section
/-! SUPPORT. Proofs/Bounds.lean: what a line event, the end of a job, a grant or an offer keeps of the bounds of Safety.lean, one
lemma per shared operation. -/

namespace Sys2Proof.Machine

open Sys2Proof.Claims

/-! ## Lists, waiters and holding list under the shared operations (R5, R67, R152) -/

/-- A line event, an end of a job, a grant or an offer: it stays within `LineFrame`, no list and no group's waiters grow, and the
holding list with its reservation stays within its eight entries. -/
structure Bounded (s t : State) : Prop where
  frame : LineFrame s t
  lists (g : GroupId) : t.lists[g].length ≤ s.lists[g].length
  waiters (g : GroupId) : t.groups[g].waiters.length ≤ s.groups[g].waiters.length
  holding : s.holding.length + bit s.cp.reserved ≤ 8 → t.holding.length + bit s.cp.reserved ≤ 8

namespace Bounded

theorem refl (s : State) : Bounded s s := ⟨.refl s, fun _ => le_rfl, fun _ => le_rfl, id⟩

theorem trans {s t u : State} (h : Bounded s t) (k : Bounded t u) : Bounded s u where
  frame := h.frame.trans k.frame
  lists g := (k.lists g).trans (h.lists g)
  waiters g := (k.waiters g).trans (h.waiters g)
  holding b := by
    have same := h.frame.cp
    rw [← same]
    exact k.holding (same ▸ h.holding b)

/-- An operation that leaves lists, groups and holding list as they were. -/
theorem of_eq {s t : State} (frame : LineFrame s t) (lists : t.lists = s.lists) (groups : t.groups = s.groups)
    (holding : t.holding = s.holding) : Bounded s t :=
  ⟨frame, fun _ => by rw [lists], fun _ => by rw [groups], fun b => by rwa [holding]⟩

theorem foldl {β : Type} (step : State → β → State) (h : ∀ s b, Bounded s (step s b)) (l : List β) (s : State) :
    Bounded s (l.foldl step s) := by
  induction l generalizing s with
  | nil => exact refl s
  | cons b l ih => exact (h s b).trans (ih _)

end Bounded

theorem modGroup_bounded (g : GroupId) (f : GroupState → GroupState) (s : State)
    (h : ∀ x, (f x).waiters.length ≤ x.waiters.length) : Bounded s (modGroup g f s) where
  frame := modGroup_frame g f s
  lists _ := le_rfl
  waiters k := by
    rw [modGroup_get]
    split
    · rename_i e; subst e; exact h _
    · exact le_rfl
  holding := id

theorem modJob_bounded (c : CtxId) (f : Job → Job) (s : State) : Bounded s (modJob c f s) := .of_eq rfl rfl rfl rfl

/-- A record that is offered while an unreserved entry is free finds its entry. -/
theorem place_bounded (r : CompRecord) {s : State} (h : unreservedFree s = true) : Bounded s (place r s) where
  frame := place_frame r s
  lists _ := le_rfl
  waiters _ := le_rfl
  holding _ := by
    have free := (unreservedFree_iff s).mp h
    rw [place_holding, List.length_append, List.length_singleton]
    omega

theorem offerNotice_bounded (c : CtxId) (r : CompRecord) (s : State) : Bounded s (offerNotice c r s) := by
  unfold offerNotice
  split
  · rename_i h; exact place_bounded r h
  · exact modJob_bounded c _ s

theorem setEndQueue_bounded (l : List CtxId) (s : State) : Bounded s (setEndQueue l s) := .of_eq rfl rfl rfl rfl
theorem setEligible_bounded (l : List GroupId) (s : State) : Bounded s (setEligible l s) := .of_eq rfl rfl rfl rfl
theorem setSlot_bounded (i : SlotId) (st : SlotState) (s : State) : Bounded s (setSlot i st s) := .of_eq rfl rfl rfl rfl
theorem formPulses_bounded (g : GroupId) (c : CtxId) (i : SlotId) (s : State) : Bounded s (formPulses g c i s) :=
  .of_eq rfl rfl rfl rfl
theorem noteEligible_bounded (s : State) : Bounded s (noteEligible s) := .of_eq rfl rfl rfl rfl

theorem readyWaiters_bounded (c : CtxId) (s : State) : Bounded s (readyWaiters c s) where
  frame := readyWaiters_frame c s
  lists _ := le_rfl
  waiters g := by rw [readyWaiters_get, List.length_map]
  holding := id

theorem dropWaiter_bounded (g : GroupId) (s : State) : Bounded s (dropWaiter g s) :=
  modGroup_bounded g _ s fun x => by simp

theorem placeJobEnd_bounded (s : State) : Bounded s (placeJobEnd s) := by
  unfold placeJobEnd
  split
  · exact .refl s
  · rename_i c rest _
    split
    · rename_i free
      split
      · exact .of_eq rfl rfl rfl rfl
      · split
        · exact .of_eq rfl rfl rfl rfl
        · refine Bounded.trans ?_ (noteEligible_bounded _)
          refine Bounded.trans ?_ (readyWaiters_bounded c _)
          exact (place_bounded _ free).trans (setEndQueue_bounded rest _)
    · exact .refl s

theorem placeDrain_bounded (s : State) : Bounded s (placeDrain s) := by
  unfold placeDrain
  split
  · exact .refl s
  · rename_i g rest _
    split
    · rename_i free
      split
      · exact .of_eq rfl rfl rfl rfl
      · refine Bounded.trans ?_ (noteEligible_bounded _)
        exact ((place_bounded _ free).trans (dropWaiter_bounded g _)).trans (setEligible_bounded rest _)
    · exact .refl s

theorem settleOffers_bounded (n : Nat) (s : State) : Bounded s (settleOffers n s) := by
  induction n generalizing s with
  | zero => exact .refl s
  | succ n ih =>
    unfold settleOffers
    split
    · split
      · exact (placeJobEnd_bounded s).trans (ih _)
      · split
        · exact (placeDrain_bounded s).trans (ih _)
        · exact .refl s
    · exact .refl s

theorem GrantFrame.fields {s t : State} (h : GrantFrame s t) :
    t.lists = s.lists ∧ t.groups = s.groups ∧ t.endQueue = s.endQueue ∧ t.eligible = s.eligible ∧ t.pulses = s.pulses ∧
      t.holding = s.holding :=
  ⟨by have e := congrArg State.lists h.1; exact e, by have e := congrArg State.groups h.1; exact e,
    by have e := congrArg State.endQueue h.1; exact e, by have e := congrArg State.eligible h.1; exact e,
    by have e := congrArg State.pulses h.1; exact e, by have e := congrArg State.holding h.1; exact e⟩

theorem grant_bounded (s : State) : Bounded s (grant s) := by
  obtain ⟨lists, groups, -, -, -, holding⟩ := (grant_grant s).fields
  exact .of_eq (grant_frame s) lists groups holding

theorem armTest_bounded (c : CtxId) (s : State) : Bounded s (armTest c s) := by
  refine .of_eq (armTest_frame c s) ?_ ?_ ?_
  · have e := congrArg State.lists (armTest_rest c s); exact e
  · have e := congrArg State.groups (armTest_rest c s); exact e
  · have e := congrArg State.holding (armTest_rest c s); exact e

theorem leaveList_bounded (c : CtxId) (g : GroupId) (s : State) : Bounded s (leaveList c g s) := by
  obtain ⟨lists, groups, same, -⟩ := leaveList_spec c g s
  refine ⟨leaveList_frame c g s, fun h => ?_, fun h => ?_, fun b => ?_⟩
  · rw [lists h]
    split
    · rename_i e; subst e; exact List.length_filter_le _ _
    · exact le_rfl
  · rw [groups h]
    split
    · rename_i e; obtain ⟨rfl, -⟩ := e; exact (List.length_map _).le
    · exact le_rfl
  · have kept : (leaveList c g s).holding = s.holding := by have e := congrArg State.holding same; exact e
    rwa [kept]

theorem markEnded_bounded (c : CtxId) (st : EndStatus) (s : State) : Bounded s (markEnded c st s) := modJob_bounded c _ s
theorem leaveWait_bounded (c : CtxId) (s : State) : Bounded s (leaveWait c s) := .of_eq rfl rfl rfl rfl
theorem releaseRing_bounded (c : CtxId) (s : State) : Bounded s (releaseRing c s) := .of_eq rfl rfl rfl rfl
theorem queueEnd_bounded (c : CtxId) (s : State) : Bounded s (queueEnd c s) := .of_eq rfl rfl rfl rfl

theorem endJob_bounded (c : CtxId) (st : EndStatus) (s : State) : Bounded s (endJob c st s) := by
  unfold endJob
  split
  · exact .refl s
  · refine Bounded.trans ?_ (settleOffers_bounded _ _)
    refine Bounded.trans ?_ (grant_bounded _)
    have left : Bounded s (releaseRing c (leaveWait c (markEnded c st s))) :=
      ((markEnded_bounded c st s).trans (leaveWait_bounded c _)).trans (releaseRing_bounded c _)
    exact (left.trans (leaveList_bounded c _ _)).trans (queueEnd_bounded c _)

/-! ## Settling -/

theorem retireHead_bounded (c : CtxId) (e : Extent) (rest : List Extent) (s : State) : Bounded s (retireHead c e rest s) := by
  unfold retireHead
  split
  · exact .refl s
  · split
    · exact Bounded.trans (modJob_bounded c _ s) (offerNotice_bounded c _ _)
    · exact modJob_bounded c _ s

theorem retireFrom_bounded (c : CtxId) (es : List Extent) (s : State) : Bounded s (retireFrom c es s) := by
  induction es generalizing s with
  | nil => exact .refl s
  | cons e es ih =>
    unfold retireFrom
    split
    · exact (retireHead_bounded c e es s).trans (ih _)
    · exact .refl s

theorem settleLine_bounded (c : CtxId) (n : Nat) (s : State) : Bounded s (settleLine c n s) := by
  unfold settleLine
  split
  · exact .refl s
  · exact Bounded.trans (modJob_bounded c _ s) (retireFrom_bounded c _ _)

/-! ## Line events -/

theorem latchProfile_bounded (g : GroupId) (p : ProfileId) (s : State) : Bounded s (latchProfile g p s) := by
  unfold latchProfile
  split
  · exact .refl s
  · exact modGroup_bounded g _ s fun _ => le_rfl

theorem markTest_bounded (c : CtxId) (s : State) : Bounded s (markTest c s) := by
  unfold markTest
  split
  · exact .refl s
  · split
    · exact offerNotice_bounded c _ s
    · exact .refl s

theorem lastLineTest_bounded (c : CtxId) (n : Nat) (s : State) : Bounded s (lastLineTest c n s) := by
  unfold lastLineTest
  split
  · exact .refl s
  · split
    · split
      · exact endJob_bounded c _ s
      · exact modJob_bounded c _ s
    · exact .refl s

theorem fireLine_bounded (g : GroupId) (c : CtxId) (j : Job) (i : SlotId) (s : State) : Bounded s (fireLine g c j i s) := by
  unfold fireLine
  extract_lets s1 s2
  have fired : Bounded s s1 := (setSlot_bounded i _ s).trans (latchProfile_bounded g _ _)
  have formed : Bounded s1 s2 := (formPulses_bounded g c i s1).trans (modJob_bounded c _ _)
  exact ((fired.trans formed).trans (markTest_bounded c _)).trans (lastLineTest_bounded c _ _)

theorem skipEndTest_bounded (c : CtxId) (s : State) : Bounded s (skipEndTest c s) := by
  unfold skipEndTest
  split
  · exact .refl s
  · split
    · exact endJob_bounded c _ s
    · exact .refl s

theorem skipSlot_bounded (c : CtxId) (n : Nat) (i : Option SlotId) (s : State) : Bounded s (skipSlot c n i s) := by
  have settled : Bounded s (settleLine c n (modJob c (fun j => { j with cursor := max j.cursor (n + 1) }) s)) :=
    Bounded.trans (modJob_bounded c _ s) (settleLine_bounded c n _)
  unfold skipSlot
  split
  · exact settled
  · split
    · exact .of_eq rfl rfl rfl rfl
    all_goals exact settled

theorem underrun_bounded (c : CtxId) (j : Job) (i : Option SlotId) (s : State) : Bounded s (underrun c j i s) := by
  unfold underrun
  split
  · split
    · refine Bounded.trans ?_ (skipEndTest_bounded c _)
      exact (skipSlot_bounded c _ i s).trans (modJob_bounded c _ _)
    · exact modJob_bounded c _ s
  · exact modJob_bounded c _ s
  · exact endJob_bounded c _ s

theorem runLine_bounded (g : GroupId) (c : CtxId) (j : Job) (s : State) : Bounded s (runLine g c j s) := by
  unfold runLine
  split
  · exact underrun_bounded c j _ s
  · split
    · exact fireLine_bounded g c j _ s
    · exact underrun_bounded c j _ s

theorem releaseFiring_bounded (c : CtxId) (s : State) : Bounded s (releaseFiring c s) := .of_eq rfl rfl rfl rfl

theorem actOnFront_bounded (g : GroupId) (s : State) : Bounded s (actOnFront g s) := by
  unfold actOnFront
  split
  · exact .refl s
  · rename_i c j _
    split
    · exact (releaseFiring_bounded c s).trans (runLine_bounded g c j _)
    · exact (releaseFiring_bounded c s).trans (endJob_bounded c _ _)
    all_goals exact .refl s

theorem modCounters_bounded (g : GroupId) (f : GroupCounters → GroupCounters) (s : State) : Bounded s (modCounters g f s) :=
  modGroup_bounded g _ s fun _ => le_rfl

theorem deliver_bounded (g : GroupId) (s : State) : Bounded s (deliver g s) := by
  have acted : Bounded s (actOnFront g (cutCounted g s)) :=
    Bounded.trans (t := cutCounted g s) (.of_eq rfl rfl rfl rfl) (actOnFront_bounded g _)
  unfold deliver
  extract_lets t
  split
  · exact acted.trans ((modJob_bounded _ _ t).trans (runLine_bounded g _ _ _))
  · split
    · exact acted
    · exact acted.trans (modCounters_bounded g _ t)

theorem ownEvent_bounded (g : GroupId) (s : State) : Bounded s (ownEvent g s) := by
  unfold ownEvent
  extract_lets t
  have counted : Bounded s t := modCounters_bounded g _ s
  split
  · exact counted.trans (deliver_bounded g t)
  · refine counted.trans (Bounded.trans (t := setHold g .held t) ?_ (modCounters_bounded g _ _))
    exact modGroup_bounded g _ t fun _ => le_rfl
  · exact counted.trans (modCounters_bounded g _ t)

theorem acceptTrigger_bounded (g : GroupId) (s : State) : Bounded s (acceptTrigger g s) :=
  modGroup_bounded g _ s fun _ => le_rfl

theorem leaderEvent_bounded (own : GroupId → State → State) (h : ∀ f t, Bounded t (own f t)) (g f : GroupId) (s : State) :
    Bounded s (leaderEvent own g s f) := by
  unfold leaderEvent
  split
  · split
    · split
      · exact (acceptTrigger_bounded f s).trans (h f _)
      · exact acceptTrigger_bounded f s
    · exact modCounters_bounded f _ s
    all_goals exact .refl s
  · exact .refl s

theorem lineEvent_bounded (n : Nat) (g : GroupId) (s : State) : Bounded s (lineEvent n g s) := by
  induction n generalizing g s with
  | zero => exact .refl s
  | succ n ih =>
    exact (ownEvent_bounded g s).trans (Bounded.foldl _ (fun t f => leaderEvent_bounded _ (fun f t => ih f t) g f t) _ _)

theorem produceLineEvent_bounded (g : GroupId) (s : State) : Bounded s (produceLineEvent g s) := lineEvent_bounded 4 g s

end Sys2Proof.Machine
end

section
/-! SUPPORT. Proofs/Effects.lean: everything a command can do to the fields that the laws of Safety.lean speak of: one relation for the
quiet commands, one inversion of `exec` for all of them. -/

namespace Sys2Proof.Machine

open Sys2Proof.Claims

/-! ## Quiet changes -/

/-- Divider in effect, held divider and the REFCLK periods of the present tick are in range (R47, R163). -/
def ClockInRange (s : State) : Prop :=
  (1 ≤ s.divider.toNat ∧ s.divider.toNat ≤ 16) ∧ (1 ≤ s.dividerHeld.toNat ∧ s.dividerHeld.toNat ≤ 16) ∧
  s.clock.phase < s.divider.toNat

/-- RUN, the Command Processor but for `voidReads`, the tables, INT_MOD and the held divider stay; lists and waiters do not grow; the
holding list stays within its eight entries, and the clock within its ranges. -/
structure Quiet (s t : State) : Prop where
  run : t.run = s.run
  cp : { t.cp with voidReads := s.cp.voidReads } = s.cp
  configs : t.configs = s.configs
  lanes : t.lanes = s.lanes
  profiles : t.profiles = s.profiles
  intMod : t.intMod = s.intMod
  clock : ClockInRange s → ClockInRange t
  lists (g : GroupId) : t.lists[g].length ≤ s.lists[g].length
  waiters (g : GroupId) : t.groups[g].waiters.length ≤ s.groups[g].waiters.length
  holding : s.holding.length + bit s.cp.reserved ≤ 8 → t.holding.length + bit s.cp.reserved ≤ 8

namespace Quiet

theorem refl (s : State) : Quiet s s := ⟨rfl, rfl, rfl, rfl, rfl, rfl, id, fun _ => le_rfl, fun _ => le_rfl, id⟩

section
variable {s t u : State} (h : Quiet s t)
include h

theorem cpState : t.cp.state = s.cp.state := by have e := congrArg CommandProcessor.state h.cp; exact e
theorem reserved : t.cp.reserved = s.cp.reserved := by have e := congrArg CommandProcessor.reserved h.cp; exact e
theorem priority : t.cp.priority = s.cp.priority := by have e := congrArg CommandProcessor.priority h.cp; exact e
theorem normal : t.cp.normal = s.cp.normal := by have e := congrArg CommandProcessor.normal h.cp; exact e
theorem count : t.cp.count = s.cp.count := by have e := congrArg CommandProcessor.count h.cp; exact e

theorem trans (k : Quiet t u) : Quiet s u where
  run := k.run.trans h.run
  cp := by
    calc
      _ = { ({ u.cp with voidReads := t.cp.voidReads } : CommandProcessor) with voidReads := s.cp.voidReads } := rfl
      _ = _ := by rw [k.cp]; exact h.cp
  configs := k.configs.trans h.configs
  lanes := k.lanes.trans h.lanes
  profiles := k.profiles.trans h.profiles
  intMod := k.intMod.trans h.intMod
  clock c := k.clock (h.clock c)
  lists g := (k.lists g).trans (h.lists g)
  waiters g := (k.waiters g).trans (h.waiters g)
  holding b := by
    have same := h.reserved
    rw [← same]
    exact k.holding (same ▸ h.holding b)

end

/-- A change of fields that no law of lists, waiters, holding list, clock, tables or Command Processor speaks of. -/
theorem of_aside {s t : State}
    (h : { t with
      inReset := s.inReset, resetting := s.resetting, fetchLimit := s.fetchLimit, fault := s.fault, jobs := s.jobs,
      endQueue := s.endQueue, slots := s.slots, slotWait := s.slotWait, tracker := s.tracker, lastServed := s.lastServed,
      lateReads := s.lateReads, eligible := s.eligible, pulses := s.pulses, comp := s.comp, condition := s.condition,
      link := s.link, pending := s.pending } = s) : Quiet s t := by
  rw [← h]
  exact ⟨rfl, rfl, rfl, rfl, rfl, rfl, id, fun _ => le_rfl, fun _ => le_rfl, id⟩

/-- A change of the clock alone that keeps its ranges. -/
theorem of_clock {s t : State} (h : { t with clock := s.clock } = s) (k : ClockInRange s → t.clock.phase < s.divider.toNat) :
    Quiet s t := by
  have same : t = { s with clock := t.clock } := by rw [← h]
  rw [same]
  exact ⟨rfl, rfl, rfl, rfl, rfl, rfl, fun c => ⟨c.1, c.2.1, k c⟩, fun _ => le_rfl, fun _ => le_rfl, id⟩

end Quiet

theorem Bounded.quiet {s t : State} (h : Bounded s t) : Quiet s t where
  run := h.frame.run
  cp := by rw [h.frame.cp]
  configs := h.frame.configs
  lanes := h.frame.lanes
  profiles := h.frame.profiles
  intMod := h.frame.intMod
  clock c := by
    unfold ClockInRange
    rw [h.frame.divider, h.frame.dividerHeld, h.frame.clock]
    exact c
  lists := h.lists
  waiters := h.waiters
  holding := h.holding

theorem emit_quiet (m : LinkMsg) (s : State) : Quiet s (emit m s) := .of_aside rfl
theorem setEntry_quiet (e : EntryId) (r : Option LineRead) (s : State) : Quiet s (setEntry e r s) := .of_aside rfl
theorem setSlot_quiet (i : SlotId) (st : SlotState) (s : State) : Quiet s (setSlot i st s) := .of_aside rfl
theorem setPulse_quiet (l : LaneId) (p : Pulse) (s : State) : Quiet s (setPulse l p s) := .of_aside rfl
theorem setLastServed_quiet (g : GroupId) (s : State) : Quiet s (setLastServed g s) := .of_aside rfl

theorem advance_quiet (k : Nat) (s : State) : Quiet s (advance k s) :=
  .of_clock rfl fun ⟨⟨positive, _⟩, _⟩ => Nat.mod_lt _ positive

theorem toTick_quiet (k : Nat) (s : State) : Quiet s (toTick k s) := by
  refine .of_clock (toTick_spec k s).1 fun ⟨⟨positive, _⟩, _, inTick⟩ => ?_
  unfold toTick
  split
  · exact positive
  · exact inTick

theorem toMoment_quiet (m : Nat) (s : State) : Quiet s (toMoment m s) := by
  unfold toMoment
  split
  · exact advance_quiet _ s
  · exact .refl s

theorem latchDivider_quiet (s : State) : Quiet s (latchDivider s) :=
  ⟨rfl, rfl, rfl, rfl, rfl, rfl, fun ⟨_, held, _⟩ => ⟨held, held, held.1⟩, fun _ => le_rfl, fun _ => le_rfl, id⟩

theorem evalInterrupt_quiet (s : State) : Quiet s (evalInterrupt s) := by rw [evalInterrupt_eq]; exact .of_aside rfl

theorem handFault_quiet (kind : FaultKinds) (ring : FaultRing) (index : Short) (s : State) :
    Quiet s (handFault kind ring index s) := by
  unfold handFault
  split
  · exact .refl s
  · exact Quiet.trans (t := { s with fault := recordFault s.fault kind ring index }) (.of_aside rfl) (evalInterrupt_quiet _)

theorem startClocks_quiet (s : State) : Quiet s (startClocks s) :=
  ⟨rfl, rfl, rfl, rfl, rfl, rfl, id, fun _ => le_rfl, fun g => by rw [startClocks_get], id⟩

theorem endResetting_quiet (s : State) : Quiet s (endResetting s) :=
  Quiet.trans (t := { s with resetting := false }) (.of_aside rfl) ((latchDivider_quiet _).trans (startClocks_quiet _))

theorem freeEntry_quiet (e : EntryId) (s : State) : Quiet s (freeEntry e s) := by
  unfold freeEntry
  split
  · exact (setEntry_quiet e none s).trans (endResetting_quiet _)
  · exact setEntry_quiet e none s

theorem fetchFault_quiet (c : CtxId) (n : Nat) (s : State) : Quiet s (fetchFault c n s) := by
  have cut (j : Job) : Quiet s (cutUncounted j s) := by
    unfold cutUncounted
    split
    · exact .of_aside rfl
    · exact .refl s
  unfold fetchFault
  split
  · exact (grant_bounded s).quiet
  · split
    · exact (cut _).trans (endJob_bounded c _ _).quiet
    · exact (grant_bounded s).quiet

theorem failRead_quiet (e : EntryId) (read : LineRead) (s : State) : Quiet s (failRead e read s) := by
  unfold failRead
  extract_lets t
  have freed : Quiet s t := freeEntry_quiet e s
  have emptied : Quiet s (setSlot read.slot .free t) := freed.trans (setSlot_quiet _ _ t)
  split
  · exact freed
  · split
    · exact emptied.trans (fetchFault_quiet _ _ _)
    · exact emptied.trans (fetchFault_quiet _ _ _)
    · exact emptied.trans (grant_bounded _).quiet
    all_goals exact freed

theorem fillSlot_quiet (i : SlotId) (c : CtxId) (k n : Nat) (data : List Byte) (s : State) : Quiet s (fillSlot i c k n data s) :=
  Quiet.trans (t := writeSlot i (.ready c k n) data s) (.of_aside rfl)
    ((settleLine_bounded c n _).trans (armTest_bounded c _)).quiet

/-- From an operation that is quiet to the outcome of the command that is this operation. -/
theorem quiet_of_next {s t u : State} (h : (Host.Outcome.next u : Result) = .next t) (k : Quiet s u) : Quiet s t := by
  cases h
  exact k

theorem takeData_quiet {e : EntryId} {read : LineRead} {data : List Byte} {s t : State} (h : takeData e read data s = .next t) :
    Quiet s t := by
  have freed : Quiet s (freeEntry e s) := freeEntry_quiet e s
  unfold takeData at h
  extract_lets u at h
  have slotSet (st : SlotState) : Quiet s (setSlot read.slot st u) := freed.trans (setSlot_quiet _ st u)
  split at h
  · exact quiet_of_next h freed
  · split at h
    · split at h
      · exact quiet_of_next h (freed.trans (fillSlot_quiet _ _ _ _ data u))
      · cases h
    · exact quiet_of_next h ((slotSet _).trans (settleLine_bounded _ _ _).quiet)
    · exact quiet_of_next h ((slotSet _).trans (grant_bounded _).quiet)
    all_goals exact quiet_of_next h freed

theorem issueLineRead_quiet (e : EntryId) (c : CtxId) (j : Job) (i : SlotId) (s : State) : Quiet s (issueLineRead e c j i s) := by
  unfold issueLineRead
  refine Quiet.trans ?_ (modJob_bounded c _ _).quiet
  refine Quiet.trans ?_ (setLastServed_quiet _ _)
  refine Quiet.trans ?_ (setEntry_quiet e _ _)
  exact (emit_quiet _ s).trans (setSlot_quiet i _ _)

theorem issueDecision_quiet (s : State) : Quiet s (issueDecision s) := by
  unfold issueDecision
  split
  · split
    · exact issueLineRead_quiet _ _ _ _ s
    · exact .refl s
  · exact .refl s

theorem seeTrigger_quiet (g : GroupId) (s : State) : Quiet s (seeTrigger g s) := by
  unfold seeTrigger
  split
  · exact (modCounters_bounded g _ s).quiet
  · split
    · exact (modCounters_bounded g _ s).quiet
    · split
      · exact ((acceptTrigger_bounded g s).trans (produceLineEvent_bounded g _)).quiet
      · exact (acceptTrigger_bounded g s).quiet
  all_goals exact .refl s

theorem setClock_quiet (g : GroupId) (k : LineClock) (s : State) : Quiet s (setClock g k s) := by
  refine (modGroup_bounded g _ s ?_).quiet
  exact fun _ => le_rfl

theorem reportPulseEnd_quiet (g : GroupId) (c : CtxId) (s : State) : Quiet s (reportPulseEnd g c s) := by
  unfold reportPulseEnd
  split
  · exact (endJob_bounded c _ s).quiet
  · exact .refl s

/-! ## What a command can do -/

/-- The state in which a command of this ring gives its response: what the command has done to its block (R116). -/
inductive Prepared (c : Instr) (s : State) : State → Prop
  | quiet {u : State} (h : Quiet s u) : Prepared c s u
  | config {id : Short} {target : Word} {f : GroupFields} {g : GroupId} (command : c = .configGroup id target f)
      (ok : configGroupStatus s g f = .ok) : Prepared c s (applyConfigGroup g f s)
  | lanes {data : List Byte} {first : Byte} {records : List LaneRecord} (command : c = .auxiliaryReadData data) :
      Prepared c s (applyLanes first records s)
  | profile {data : List Byte} {p : ProfileId} {entries : Vector ProfileEntry 16} (command : c = .auxiliaryReadData data)
      (inRange : profileTable data = some entries) : Prepared c s (publish p entries s)
  | job {x : CtxId} {tag : Word} {p : JobParams} {extents : List Extent}
      (room : s.lists[p.group].length < 4 ∨ ∃ r e id tag, s.cp.state = .auxiliary r e (.startJob id tag p)) :
      Prepared c s (createJob x tag p extents s)

/-- Everything a command can do, as far as the laws of Safety.lean see it. -/
inductive Effect (c : Instr) (s : State) : State → Prop
  | quiet {t : State} (h : Quiet s t) : Effect c s t
  | answered {r : SubRing} {id : Short} {status : Status} {value : Word} {u : State} (busy : InProgress s r) (h : Prepared c s u) :
      Effect c s (respond r id status value u)
  | parked {r : SubRing} {g : GroupId} {id : Short} (busy : InProgress s r) (room : s.groups[g].waiters.length < 4) :
      Effect c s (endParked r (parkWaiter g id s))
  | reading {r : SubRing} {address : Addr} {a : AuxCommand} (busy : InProgress s r)
      (fits : ∀ id tag p, a = .startJob id tag p → s.lists[p.group].length < 4) : Effect c s (issueTableRead r address a s)
  | decision {u : State} (h : Quiet s u) : Effect c s (takeDecision u)
  | reservation {u : State} (h : Quiet s u) : Effect c s (takeReservation u)
  | stops {u : State} (h : Quiet s u) : Effect c s (stopTaking u)
  | run (v : Bool) : Effect c s (writeRun v s)
  | divider (v : BitVec 5) : Effect c s { s with dividerHeld := heldDivider v }
  | ringBase (r : SubRing) (half : WordHalf) (v : Word) :
      Effect c s (modRing r (fun x => { x with base := down64 (baseWord half v x.base) }) s)
  | ringSize (open_ : ringsWritable s = true) (r : SubRing) (size : Short) :
      Effect c s (modRing r (fun x => { x with size := size, producer := 0, consumer := 0 }) s)
  | ringProducer (r : SubRing) (v : Short) : Effect c s (takeDecision (modRing r (fun x => { x with producer := v }) s))
  | intMod (threshold : Byte) (age : Short) :
      Effect c s (evalInterrupt { s with intMod := { threshold := if threshold = 0 then 1 else threshold, age := age } })
  | engineReset : Effect c s (takeEngineReset s)
  | deviceReset {t : State} (command : c = .deviceReset) (h : execDeviceReset s = .next t) : Effect c s t

/-! ## The records of commands (R114, R115) -/

theorem startJobStatus_room {s : State} {tag : Word} {p : JobParams} (h : startJobStatus s tag p = .ok) :
    s.lists[p.group].length < 4 := by
  unfold startJobStatus at h
  split_ifs at h with _ _ _ full
  exact Nat.lt_of_not_le full

theorem applyClose_quiet (x : CtxId) (j : Job) (s : State) : Quiet s (applyClose x j s) := by
  unfold applyClose
  extract_lets t
  have closed : Quiet s t := (modJob_bounded x _ s).quiet
  have ended : Quiet s (endJob x .ended t) := closed.trans (endJob_bounded x _ t).quiet
  have closing : Quiet s (if j.firePos = j.supplied then endJob x .ended t else t) := by split <;> assumption
  cases j.state with
  | pending | waiting | primed => exact closing
  | running =>
    dsimp only
    split
    · split
      · exact ended
      · exact closed.trans (modJob_bounded x _ t).quiet
    · exact closed
  | armed | finishing | ended => exact closed

theorem applyAbort_quiet (x : CtxId) (j : Job) (s : State) : Quiet s (applyAbort x j s) := by
  refine Quiet.trans ?_ (endJob_bounded x _ _).quiet
  unfold cutUncounted
  split
  · exact .of_aside rfl
  · exact .refl s

theorem applyAppend_quiet (x : CtxId) (es : List Extent) (s : State) : Quiet s (applyAppend x es s) :=
  ((modJob_bounded x _ s).trans (armTest_bounded x _)).quiet

theorem setHold_quiet (g : GroupId) (h : HoldState) (s : State) : Quiet s (setHold g h s) := by
  refine (modGroup_bounded g _ s ?_).quiet
  exact fun _ => le_rfl

theorem clearCounters_quiet (g : GroupId) (s : State) : Quiet s (clearCounters g s) := by
  refine (modGroup_bounded g _ s ?_).quiet
  exact fun _ => le_rfl

section
variable {c : Instr} {s : State} {r : SubRing} (busy : InProgress s r)
include busy

theorem respond_effect (id : Short) (status : Status) (value : Word) : Effect c s (respond r id status value s) :=
  .answered busy (.quiet (.refl s))

theorem configGroupTaken_effect {id : Short} {target : Word} {f : GroupFields} (command : c = .configGroup id target f) :
    Effect c s (configGroupTaken id target f r s) := by
  unfold configGroupTaken
  split
  · exact respond_effect busy id _ _
  · split
    · rename_i ok; exact .answered busy (.config command ok)
    · exact respond_effect busy id _ _

theorem configLanesTaken_effect (id : Short) (first count : Byte) (address : Addr) :
    Effect c s (configLanesTaken id first count address r s) := by
  unfold configLanesTaken
  split
  · exact .reading busy fun _ _ _ other => nomatch other
  · exact respond_effect busy id _ _

theorem loadProfileTaken_effect (id : Short) (profile : Byte) (address : Addr) :
    Effect c s (loadProfileTaken id profile address r s) := by
  unfold loadProfileTaken
  split
  · exact respond_effect busy id _ _
  · split
    · exact .reading busy fun _ _ _ other => nomatch other
    · exact respond_effect busy id _ _

theorem startAtOnce_effect (id : Short) (tag : Word) {p : JobParams} (room : s.lists[p.group].length < 4) :
    Effect c s (startAtOnce id tag p r s) := by
  unfold startAtOnce
  split
  · exact respond_effect busy id _ _
  · exact .answered busy (.job (.inl room))

theorem startJobTaken_effect (id : Short) (tag : Word) (f : StartFields) : Effect c s (startJobTaken id tag f r s) := by
  unfold startJobTaken
  split
  · exact respond_effect busy id _ _
  · split
    · rename_i ok
      have room := startJobStatus_room ok
      split
      · exact startAtOnce_effect busy id tag room
      · refine .reading busy fun _ _ _ same => ?_
        cases same
        exact room
    · exact respond_effect busy id _ _

theorem withJob_effect (id : Short) (tag : Word) {f : CtxId → Job → State → State} (hf : ∀ x j, Effect c s (f x j s)) :
    Effect c s (withJob r id tag f s) := by
  unfold withJob
  split
  · exact respond_effect busy id _ _
  · split
    · exact respond_effect busy id _ _
    · split
      · exact hf _ _
      · exact respond_effect busy id _ _

theorem appendToJob_effect (id : Short) (tag : Word) (count : Byte) (address : Addr) (x : CtxId) (j : Job) :
    Effect c s (appendToJob id tag count address r x j s) := by
  unfold appendToJob
  split
  · exact respond_effect busy id _ _
  · split
    · exact respond_effect busy id _ _
    · exact .reading busy fun _ _ _ other => nomatch other

theorem appendLinesTaken_effect (id : Short) (tag : Word) (count : Byte) (address : Addr) :
    Effect c s (appendLinesTaken id tag count address r s) := by
  unfold appendLinesTaken
  split
  · exact withJob_effect busy id tag (appendToJob_effect busy id tag count address)
  · exact respond_effect busy id _ _

theorem closeOpenJob_effect (id : Short) (x : CtxId) (j : Job) : Effect c s (closeOpenJob id r x j s) := by
  unfold closeOpenJob
  split
  · exact respond_effect busy id _ _
  · exact .answered busy (.quiet (applyClose_quiet x j s))

theorem holdTaken_effect (id : Short) (target : Word) (next : HoldState → HoldState) :
    Effect c s (holdTaken id target next r s) := by
  unfold holdTaken
  split
  · exact respond_effect busy id _ _
  · split
    · exact .answered busy (.quiet (setHold_quiet _ _ s))
    · exact respond_effect busy id _ _

theorem drainTaken_effect (id : Short) (target : Word) : Effect c s (drainTaken id target r s) := by
  unfold drainTaken
  split
  · exact respond_effect busy id _ _
  · split
    · exact respond_effect busy id _ _
    · split
      · rename_i room; exact .parked busy room
      · exact respond_effect busy id _ _

theorem reportTaken_effect (id : Short) (target : Word) (clear : Bool) (address : Addr) :
    Effect c s (reportTaken id target clear address r s) := by
  unfold reportTaken
  split
  · exact respond_effect busy id _ _
  · split
    · refine .answered busy (.quiet ?_)
      cases clear with
      | true => exact (emit_quiet _ s).trans (clearCounters_quiet _ _)
      | false => exact emit_quiet _ s
    · exact respond_effect busy id _ _

theorem applyTable_effect {a : AuxCommand} {data : List Byte} {e : Nat} (command : c = .auxiliaryReadData data)
    (reading : s.cp.state = .auxiliary r e a) : Effect c s (applyTable r a data s) := by
  unfold applyTable
  cases a with
  | configLanes id first count =>
    dsimp only
    split
    · exact respond_effect busy id _ _
    · exact .answered busy (.lanes command)
  | loadProfile id p =>
    dsimp only
    split
    · exact respond_effect busy id _ _
    · rename_i inRange; exact .answered busy (.profile command inRange)
  | startJob id tag p =>
    dsimp only
    split
    · exact respond_effect busy id _ _
    · split
      · exact respond_effect busy id _ _
      · exact .answered busy (.job (.inr ⟨r, e, id, tag, reading⟩))
  | appendLines id tag g supplied n =>
    dsimp only
    split
    · exact respond_effect busy id _ _
    · split
      · exact respond_effect busy id _ _
      · split
        · exact respond_effect busy id _ _
        · split
          · exact respond_effect busy id _ _
          · split
            · exact .answered busy (.quiet (applyAppend_quiet _ _ s))
            · exact respond_effect busy id _ _

end

/-! ## Every command (the table of Dispatch.lean) -/

theorem onRecord_effect {c : Instr} {f : SubRing → State → State} {s : State} (hf : ∀ r, InProgress s r → Effect c s (f r s)) :
    Effect c s (onRecord f s) := by
  unfold onRecord
  split
  · rename_i r e reading
    split
    · exact hf r (.inl ⟨e, reading⟩)
    · exact .quiet (.refl s)
  all_goals exact .quiet (.refl s)

theorem hostWrite_effect {c : Instr} {f : State → State} {s : State} (hf : Effect c s (f s)) : Effect c s (hostWrite f s) := by
  rcases hostWrite_cases f s with e | e <;> rw [e]
  · exact hf
  · exact .quiet (.refl s)

/-- From the effect of an operation to the outcome of the command that is this operation. -/
theorem effect_of_next {c : Instr} {s t u : State} (h : (Host.Outcome.next u : Result) = .next t) (k : Effect c s u) :
    Effect c s t := by
  cases h
  exact k

theorem noteVoidRead_quiet (s : State) : Quiet s (noteVoidRead s) :=
  ⟨rfl, rfl, rfl, rfl, rfl, rfl, id, fun _ => le_rfl, fun _ => le_rfl, id⟩

theorem ringReadFault_effect {c : Instr} {s u : State} (r : SubRing) (h : Quiet s u) : Effect c s (ringReadFault r u) :=
  .stops (h.trans (handFault_quiet _ _ _ u))

theorem exec_hostWrite_effect {c : Instr} {s t : State} (host : hostWriteCommand c = true) (h : exec c s = .next t) :
    Effect c s t := by
  cases c with
  | run v => exact effect_of_next h (hostWrite_effect (.run v))
  | engineReset v =>
    rcases exec_engineReset_cases h with ⟨-, rfl⟩ | rfl
    · exact .engineReset
    · exact .quiet (.refl _)
  | fetchLimit => exact effect_of_next h (hostWrite_effect (.quiet (.of_aside rfl)))
  | tickDivider v => exact effect_of_next h (hostWrite_effect (.divider v))
  | faultClear w =>
    refine effect_of_next h (hostWrite_effect (.quiet ?_))
    exact Quiet.trans (t := { s with fault := clearedFault s.fault w }) (.of_aside rfl) (evalInterrupt_quiet _)
  | submissionBase r half v =>
    refine effect_of_next h (hostWrite_effect ?_)
    split
    · exact .ringBase r half v
    · exact .quiet (.refl s)
  | submissionSize r size =>
    refine effect_of_next h (hostWrite_effect ?_)
    split
    · rename_i writable; exact .ringSize writable r size
    · exact .quiet (.refl s)
  | producer r v => exact effect_of_next h (hostWrite_effect (.ringProducer r v))
  | completionBase =>
    refine effect_of_next h (hostWrite_effect ?_)
    split
    · exact .quiet (.of_aside rfl)
    · exact .quiet (.refl s)
  | completionSize v =>
    refine effect_of_next h (hostWrite_effect ?_)
    split
    · refine .quiet (Quiet.trans (t := { s with comp := _ }) (.of_aside ?_) (evalInterrupt_quiet _))
      rfl
    · exact .quiet (.refl s)
  | consumer v =>
    refine effect_of_next h (hostWrite_effect (.quiet ?_))
    unfold writeConsumer
    split
    · exact .refl s
    · split
      · exact Quiet.trans (t := { s with comp := released s.comp v }) (.of_aside rfl) (evalInterrupt_quiet _)
      · exact Quiet.trans (t := stopPosting s) (.of_aside rfl) (handFault_quiet _ _ _ _)
  | intMod threshold age => exact effect_of_next h (hostWrite_effect (.intMod threshold age))
  | registerWrite => exact effect_of_next h (.quiet (.refl s))
  | _ => cases host

theorem exec_recordAnswer_effect {c : Instr} {s t : State} (record : recordAnswer c = true) (h : exec c s = .next t) :
    Effect c s t := by
  cases c with
  | nop id => exact effect_of_next h (onRecord_effect fun r busy => respond_effect busy id _ _)
  | unknownOpcode opcode id =>
    change execUnknownOpcode opcode id s = _ at h
    unfold execUnknownOpcode at h
    split at h
    · cases h
    · exact effect_of_next h (onRecord_effect fun r busy => respond_effect busy id _ _)
  | configGroup => exact effect_of_next h (onRecord_effect fun r busy => configGroupTaken_effect busy rfl)
  | configLanes id first count a => exact effect_of_next h (onRecord_effect fun r busy => configLanesTaken_effect busy id first count a)
  | loadProfile id p a => exact effect_of_next h (onRecord_effect fun r busy => loadProfileTaken_effect busy id p a)
  | startJob id tag f => exact effect_of_next h (onRecord_effect fun r busy => startJobTaken_effect busy id tag f)
  | appendLines id tag n a => exact effect_of_next h (onRecord_effect fun r busy => appendLinesTaken_effect busy id tag n a)
  | closeJob id tag =>
    exact effect_of_next h (onRecord_effect fun r busy => withJob_effect busy id tag (closeOpenJob_effect busy id))
  | abortJob id tag =>
    refine effect_of_next h (onRecord_effect fun r busy => withJob_effect busy id tag fun x j => ?_)
    exact .answered busy (.quiet (applyAbort_quiet x j s))
  | holdGroup id target => exact effect_of_next h (onRecord_effect fun r busy => holdTaken_effect busy id target afterHold)
  | releaseGroup id target => exact effect_of_next h (onRecord_effect fun r busy => holdTaken_effect busy id target afterRelease)
  | drainGroup id target => exact effect_of_next h (onRecord_effect fun r busy => drainTaken_effect busy id target)
  | reportGroup id target clear a => exact effect_of_next h (onRecord_effect fun r busy => reportTaken_effect busy id target clear a)
  | _ => cases record

theorem execDeviceResetComplete_quiet {s t : State} (h : execDeviceResetComplete s = .next t) : Quiet s t := by
  unfold execDeviceResetComplete at h
  split at h
  · exact quiet_of_next h (.refl s)
  · rename_i fell _
    refine quiet_of_next h (Quiet.trans ?_ (latchDivider_quiet _))
    exact (toMoment_quiet (fell + periods s Config.deviceResetMicros) s).trans (.of_aside rfl)

theorem execFetchDataAnswer_quiet {e : EntryId} {data : List Byte} {s t : State} (h : execFetchDataAnswer e data s = .next t) :
    Quiet s t := by
  unfold execFetchDataAnswer at h
  split at h
  · exact quiet_of_next h (.refl s)
  · split at h
    · exact takeData_quiet h
    · exact quiet_of_next h (.refl s)

theorem execAuxiliaryReadData_effect {data : List Byte} {s t : State} (h : execAuxiliaryReadData data s = .next t) :
    Effect (.auxiliaryReadData data) s t := by
  unfold execAuxiliaryReadData at h
  split at h
  · rename_i r e a reading
    split at h
    · split at h
      · exact effect_of_next h (applyTable_effect (.inr ⟨e, a, reading⟩) rfl reading)
      · cases h
    · exact effect_of_next h (.quiet (.refl s))
  all_goals exact effect_of_next h (.quiet (.refl s))

/-- Steps 1 to 5 of a ring write. -/
theorem postRecord_quiet {r : CompRecord} {rest : List CompRecord} {s : State} (h : s.holding = r :: rest) :
    Quiet s (freeJob r (evalInterrupt (postRecord r rest s))) := by
  have posted : Quiet s (postRecord r rest s) := by
    refine ⟨rfl, rfl, rfl, rfl, rfl, rfl, id, fun _ => le_rfl, fun _ => le_rfl, fun b => ?_⟩
    rw [h, List.length_cons] at b
    exact le_trans (by simp [postRecord]) b
  refine posted.trans ((evalInterrupt_quiet _).trans ?_)
  cases r with
  | jobEnd => exact .of_aside rfl
  | response | mark | extentDone => exact .refl _

theorem giveEntry_effect {c : Instr} {s u : State} (h : Quiet s u) : Effect c s (giveEntry u) := by
  unfold giveEntry
  split
  · exact .quiet (h.trans (settleOffers_bounded _ u).quiet)
  · exact .reservation h

theorem exec_event_effect {c : Instr} {s t : State} (host : hostWriteCommand c = false) (record : recordAnswer c = false)
    (h : exec c s = .next t) : Effect c s t := by
  cases c with
  | deviceReset => exact .deviceReset rfl h
  | deviceResetComplete => exact .quiet (execDeviceResetComplete_quiet h)
  | trigger g edge tick =>
    refine effect_of_next h (.quiet ?_)
    split
    · exact (toTick_quiet tick s).trans (seeTrigger_quiet g _)
    · exact toTick_quiet tick s
  | periodEnd g | countdownExpiry g =>
    refine effect_of_next h (.quiet ?_)
    split
    · exact (toTick_quiet _ s).trans ((setClock_quiet g _ _).trans (produceLineEvent_bounded g _).quiet)
    all_goals exact .refl s
  | pulseStart lane =>
    refine effect_of_next h (.quiet ?_)
    split
    · exact (toTick_quiet _ s).trans (setPulse_quiet lane _ _)
    all_goals exact .refl s
  | pulseEnd lane =>
    refine effect_of_next h (.quiet ?_)
    split
    · exact ((toTick_quiet _ s).trans (setPulse_quiet lane _ _)).trans (reportPulseEnd_quiet _ _ _)
    all_goals exact .refl s
  | slotGrant => exact effect_of_next h (.quiet (grant_bounded s).quiet)
  | fetchIssue => exact effect_of_next h (.quiet (issueDecision_quiet s))
  | fetchDataAnswer => exact .quiet (execFetchDataAnswer_quiet h)
  | fetchErrorAnswer e =>
    refine effect_of_next h (.quiet ?_)
    split
    · exact .refl s
    · split
      · exact failRead_quiet e _ s
      · exact .refl s
  | fetchExpiry e =>
    refine effect_of_next h (.quiet ?_)
    split
    · exact .refl s
    · refine Quiet.trans ?_ (failRead_quiet e _ _)
      exact (toMoment_quiet _ s).trans (.of_aside rfl)
  | lateAnswer => exact effect_of_next h (.quiet (.of_aside rfl))
  | reservation => exact effect_of_next h (.reservation (.refl s))
  | takeDecision => exact effect_of_next h (.decision (.refl s))
  | recordReadError =>
    refine effect_of_next h ?_
    unfold onRecord
    split
    · split
      · exact ringReadFault_effect _ (.refl s)
      · exact .quiet (.refl s)
    all_goals exact .quiet (.refl s)
  | recordReadExpiry =>
    refine effect_of_next h ?_
    split
    · exact ringReadFault_effect _ ((toMoment_quiet _ s).trans (noteVoidRead_quiet _))
    all_goals exact .quiet (.refl s)
  | auxiliaryReadData => exact execAuxiliaryReadData_effect h
  | auxiliaryReadError =>
    refine effect_of_next h ?_
    split
    · rename_i r e a reading
      split
      · exact respond_effect (.inr ⟨e, a, reading⟩) _ _ _
      · exact .quiet (.refl s)
    all_goals exact .quiet (.refl s)
  | auxiliaryReadExpiry =>
    refine effect_of_next h ?_
    split
    · rename_i r e a reading
      exact .answered (.inr ⟨e, a, reading⟩) (.quiet ((toMoment_quiet _ s).trans (noteVoidRead_quiet _)))
    all_goals exact .quiet (.refl s)
  | voidReadAnswer =>
    refine effect_of_next h (.quiet ?_)
    exact ⟨rfl, rfl, rfl, rfl, rfl, rfl, id, fun _ => le_rfl, fun _ => le_rfl, id⟩
  | jobEndPlacement => exact effect_of_next h (.quiet (placeJobEnd_bounded s).quiet)
  | drainResponse => exact effect_of_next h (.quiet (placeDrain_bounded s).quiet)
  | completionWrite =>
    refine effect_of_next h ?_
    split
    · exact .quiet (.refl s)
    · rename_i r rest holding
      split
      · exact giveEntry_effect (postRecord_quiet holding)
      · exact .quiet (.refl s)
  | ageExpiry =>
    refine effect_of_next h (.quiet ?_)
    split
    · exact .refl s
    · split
      · exact .refl s
      · exact (toMoment_quiet _ s).trans (evalInterrupt_quiet _)
  | nop | unknownOpcode | configGroup | configLanes | loadProfile | startJob => cases record
  | appendLines | closeJob | abortJob | holdGroup | releaseGroup | drainGroup | reportGroup => cases record
  | _ => cases host

/-- What a command that goes on has done. -/
theorem exec_effect {c : Instr} {s t : State} (h : exec c s = .next t) : Effect c s t := by
  cases host : hostWriteCommand c with
  | true => exact exec_hostWrite_effect host h
  | false =>
    cases record : recordAnswer c with
    | true => exact exec_recordAnswer_effect record h
    | false => exact exec_event_effect host record h

/-- A law that does not read the queue and that every effect keeps is kept by every step. -/
theorem step_keeps {law : State → Prop} (queue : ∀ (s : State) (q : List Instr), law s → law { s with pending := q })
    (keeps : ∀ (c : Instr) (s t : State), law s → Effect c s t → law t) {s t : State} (h : law s) (k : step s = .next t) :
    law t := by
  unfold step at k
  split at k
  · cases k
    exact keeps .slotGrant s _ h (.quiet (advance_quiet 1 s))
  · exact keeps _ _ t (queue s _ h) (exec_effect k)

end Sys2Proof.Machine
end

section
/-! SUPPORT. Proofs/GroupConfig.lean: the checks of CONFIG_GROUP in the words of the statements (R126 to R128), walks along leaders
(R53), and CONFIG_GROUP itself. -/

namespace Sys2Proof.Machine

open Sys2Proof.Claims

/-! ## The checks of CONFIG_GROUP (R126 to R128) -/

theorem byteSource_cases (b : Byte) :
    b = 0 ∧ byteSource b = some .internal ∨ b = 1 ∧ byteSource b = some .external ∨ b = 2 ∧ byteSource b = some .follow ∨
      2 < b.toNat ∧ byteSource b = none := by
  unfold byteSource
  split
  · exact .inl ⟨BitVec.eq_of_toNat_eq ‹_›, rfl⟩
  · exact .inr (.inl ⟨BitVec.eq_of_toNat_eq ‹_›, rfl⟩)
  · exact .inr (.inr (.inl ⟨BitVec.eq_of_toNat_eq ‹_›, rfl⟩))
  · have no : b.toNat ≠ 0 ∧ b.toNat ≠ 1 ∧ b.toNat ≠ 2 := ⟨‹_›, ‹_›, ‹_›⟩
    exact .inr (.inr (.inr ⟨by omega, rfl⟩))

theorem byteEdge_isSome_iff (b : Byte) : (byteEdge b).isSome = true ↔ b.toNat ≤ 1 := by
  unfold byteEdge
  split
  · exact iff_of_true rfl (by omega)
  · exact iff_of_true rfl (by omega)
  · have no : b.toNat ≠ 0 ∧ b.toNat ≠ 1 := ⟨‹_›, ‹_›⟩
    exact iff_of_false nofun (by omega)

/-- The record checks of CONFIG_GROUP are the ranges of R48. -/
theorem groupFieldsOk_iff (g : GroupId) (f : GroupFields) : groupFieldsOk g f = true ↔ FieldsInRange g f := by
  unfold groupFieldsOk FieldsInRange
  rw [Bool.and_eq_true, decide_eq_true_iff]
  refine and_congr_right fun _ => ?_
  by_cases on : f.laneCount = 0#8
  · simp [on]
  · rcases byteSource_cases f.source with ⟨h, k⟩ | ⟨h, k⟩ | ⟨h, k⟩ | ⟨h, k⟩ <;> rw [k]
    · simp [on, h, and_assoc]
    · simp [on, h, byteEdge_isSome_iff, and_assoc]
    · simp [on, h, and_assoc]
    · simp [on, Nat.not_le.mpr h]

theorem inSpan_off {f : GroupFields} (h : f.laneCount = 0) (lane : Nat) : inSpan f lane = false := by
  simp [inSpan, h]

theorem configured_of_inSpan {f : GroupFields} {lane : Nat} (h : inSpan f lane = true) : configured f = true := by
  rw [configured_iff]
  intro off
  rw [inSpan_off off] at h
  cases h

theorem listBusy_iff (s : State) (g : GroupId) : listBusy s g = true ↔ s.lists[g] ≠ [] := decide_eq_true_iff

theorem configBusy_iff (s : State) (g : GroupId) (f : GroupFields) : configBusy s g f = true ↔ ConfigBusy s g f := by
  unfold configBusy ConfigBusy
  simp only [Bool.or_eq_true, Bool.and_eq_true, List.any_eq_true, List.mem_finRange, true_and, listBusy_iff, decide_eq_true_eq,
    or_assoc]

/-- Two spans meet in a lane of the 64 that the first one lies in. -/
theorem spansMeet_iff {f f' : GroupFields} (h : configured f = true → f.firstLane.toNat + f.laneCount.toNat ≤ 64) :
    spansMeet f f' = true ↔ ∃ lane, inSpan f lane = true ∧ inSpan f' lane = true := by
  unfold spansMeet
  simp only [List.any_eq_true, List.mem_range, Bool.and_eq_true]
  refine ⟨fun ⟨lane, _, both⟩ => ⟨lane, both⟩, fun ⟨lane, both⟩ => ⟨lane, ?_, both⟩⟩
  have within := h (configured_of_inSpan both.1)
  have := (inSpan_iff f lane).mp both.1
  omega

theorem FieldsInRange.span {g : GroupId} {f : GroupFields} (h : FieldsInRange g f) (k : configured f = true) :
    f.firstLane.toNat + f.laneCount.toNat ≤ 64 := (h.2 ((configured_iff f).mp k)).2.1

theorem laneConflict_iff (s : State) {g : GroupId} {f : GroupFields} (h : FieldsInRange g f) :
    laneConflict s g f = true ↔ SharesLane s g f := by
  unfold laneConflict SharesLane
  simp only [List.any_eq_true, List.mem_finRange, true_and, Bool.and_eq_true, decide_eq_true_eq, spansMeet_iff h.span]
  constructor
  · rintro ⟨k, ⟨n, -⟩, lane, both⟩
    exact ⟨k, n, lane, both⟩
  · rintro ⟨k, n, lane, both⟩
    exact ⟨k, ⟨n, configured_of_inSpan both.2⟩, lane, both⟩

theorem byteGroup_eq_some_iff {b : Byte} {g : GroupId} : byteGroup b = some g ↔ b.toNat = g.val :=
  ⟨byteGroup_eq_some, byteGroup_some⟩

theorem followLoop_iff (s : State) (g : GroupId) {f : GroupFields} (on : f.laneCount ≠ 0) :
    followLoop s g f = true ↔ MakesLoop s g f := by
  unfold followLoop MakesLoop
  rw [Bool.and_eq_true, hasSource_follow_iff, and_iff_right on]
  refine and_congr_right fun _ => ?_
  cases h : byteGroup f.leader with
  | none =>
    refine ⟨fun e => (nomatch e), fun ⟨l, e, _⟩ => ?_⟩
    rw [byteGroup_some e] at h
    cases h
  | some l =>
    refine ⟨fun e => ⟨l, byteGroup_eq_some h, e⟩, fun ⟨k, e, walk⟩ => ?_⟩
    rw [byteGroup_some e] at h
    cases h
    exact walk

theorem leaderOff_iff (s : State) {f : GroupFields} (on : f.laneCount ≠ 0) : leaderOff s f = true ↔ LeaderOff s f := by
  unfold leaderOff LeaderOff
  rw [Bool.and_eq_true, hasSource_follow_iff, and_iff_right on]
  refine and_congr_right fun _ => ?_
  have off (l : GroupId) : (!configured s.configs[l]) = true ↔ s.configs[l].laneCount = 0 := by
    rw [Bool.not_eq_true', ← Bool.not_eq_true, configured_iff, not_not]
  cases h : byteGroup f.leader with
  | none =>
    refine ⟨fun e => (nomatch e), fun ⟨l, e, _⟩ => ?_⟩
    rw [byteGroup_some e] at h
    cases h
  | some l =>
    refine ⟨fun e => ⟨l, byteGroup_eq_some h, (off l).mp e⟩, fun ⟨k, e, isOff⟩ => ?_⟩
    rw [byteGroup_some e] at h
    cases h
    exact (off _).mpr isOff

/-- An accepted CONFIG_GROUP has passed every check (R126 to R128). -/
theorem configGroupStatus_ok {s : State} {g : GroupId} {f : GroupFields} (h : configGroupStatus s g f = .ok) :
    FieldsInRange g f ∧ ¬ ConfigBusy s g f ∧
      (f.laneCount ≠ 0 → ¬ SharesLane s g f ∧ ¬ MakesLoop s g f ∧ ¬ LeaderOff s f) := by
  unfold configGroupStatus at h
  split_ifs at h with fields busy conflict loop off
  have inRange : FieldsInRange g f := (groupFieldsOk_iff g f).mp (by simpa using fields)
  refine ⟨inRange, fun b => busy ((configBusy_iff s g f).mpr b), fun on => ⟨fun x => ?_, fun x => ?_, fun x => ?_⟩⟩
  · exact conflict (Bool.and_eq_true_iff.mpr ⟨decide_eq_true on, (laneConflict_iff s inRange).mpr x⟩)
  · exact loop (Bool.and_eq_true_iff.mpr ⟨decide_eq_true on, (followLoop_iff s g on).mpr x⟩)
  · exact off (Bool.and_eq_true_iff.mpr ⟨decide_eq_true on, (leaderOff_iff s on).mpr x⟩)

/-! ## Walks along leaders (R53, R128) -/

/-- The walk's one step: from a group to the one it follows directly. -/
def Follows (configs : Vector GroupFields 4) (f l : GroupId) : Prop := followsDirect configs f l = true

theorem follows_iff_leader (configs : Vector GroupFields 4) (f l : GroupId) :
    Follows configs f l ↔ hasSource configs[f] .follow = true ∧ byteGroup configs[f].leader = some l := by
  rw [Follows, followsDirect, Bool.and_eq_true, decide_eq_true_iff, byteGroup_eq_some_iff]

/-- A group follows at most one group directly. -/
theorem Follows.unique {configs : Vector GroupFields 4} {f l m : GroupId} (h : Follows configs f l) (k : Follows configs f m) :
    l = m := by
  obtain ⟨-, a⟩ := (follows_iff_leader configs f l).mp h
  obtain ⟨-, b⟩ := (follows_iff_leader configs f m).mp k
  exact Option.some.inj (a.symm.trans b)

theorem walkReaches_succ (configs : Vector GroupFields 4) (target : GroupId) (n : Nat) (g : GroupId) :
    walkReaches configs target (n + 1) g = true ↔
      g = target ∨ ∃ l, Follows configs g l ∧ walkReaches configs target n l = true := by
  rw [walkReaches, Bool.or_eq_true, decide_eq_true_iff, Bool.and_eq_true]
  refine or_congr_right ?_
  simp only [follows_iff_leader]
  cases h : byteGroup configs[g].leader with
  | none => simp
  | some l => simp

theorem walkReaches_mono {configs : Vector GroupFields 4} {target : GroupId} {n : Nat} {g : GroupId}
    (h : walkReaches configs target n g = true) : walkReaches configs target (n + 1) g = true := by
  induction n generalizing g with
  | zero => cases h
  | succ n ih =>
    rw [walkReaches_succ] at h ⊢
    exact h.imp_right fun ⟨l, follows, walk⟩ => ⟨l, follows, ih walk⟩

/-- The groups from which a walk of so many groups reaches the target. -/
def reachers (configs : Vector GroupFields 4) (target : GroupId) (n : Nat) : Finset GroupId :=
  Finset.univ.filter fun g => walkReaches configs target n g = true

theorem mem_reachers {configs : Vector GroupFields 4} {target : GroupId} {n : Nat} {g : GroupId} :
    g ∈ reachers configs target n ↔ walkReaches configs target n g = true := by simp [reachers]

theorem reachers_subset_succ (configs : Vector GroupFields 4) (target : GroupId) (n : Nat) :
    reachers configs target n ⊆ reachers configs target (n + 1) :=
  fun _ h => mem_reachers.mpr (walkReaches_mono (mem_reachers.mp h))

/-- A walk that finds no group more in one step finds none in the next. -/
theorem reachers_stable {configs : Vector GroupFields 4} {target : GroupId} {n : Nat}
    (h : reachers configs target n = reachers configs target (n + 1)) :
    reachers configs target (n + 1) = reachers configs target (n + 2) := by
  ext g
  rw [mem_reachers, mem_reachers, walkReaches_succ, walkReaches_succ]
  refine or_congr_right (exists_congr fun l => and_congr_right fun _ => ?_)
  rw [← mem_reachers, ← mem_reachers, h]

/-- With four groups, four groups of a walk are all there are. -/
theorem reachers_four (configs : Vector GroupFields 4) (target : GroupId) {n : Nat} (h : 4 ≤ n) :
    reachers configs target n = reachers configs target 4 := by
  have grows : Monotone (reachers configs target) := monotone_nat_of_le_succ (reachers_subset_succ configs target)
  have sizes : Monotone fun n => (reachers configs target n).card := fun _ _ le => Finset.card_le_card (grows le)
  have bounded (m : Nat) : (reachers configs target m).card ≤ 4 := card_finset_fin_le _
  have same (m : Nat) (e : (reachers configs target m).card = (reachers configs target (m + 1)).card) :
      reachers configs target m = reachers configs target (m + 1) :=
    Finset.eq_of_subset_of_card_le (reachers_subset_succ configs target m) e.ge
  have stops := Nat.stabilises_of_monotone sizes bounded (fun m e => congrArg Finset.card (reachers_stable (same m e))) h
  exact (Finset.eq_of_subset_of_card_le (grows h) stops.le).symm

/-- The walk of four groups reaches exactly what a chain of leaders reaches. -/
theorem walkReaches_four_iff (configs : Vector GroupFields 4) (target g : GroupId) :
    walkReaches configs target 4 g = true ↔ Relation.ReflTransGen (Follows configs) g target := by
  constructor
  · generalize 4 = n
    intro h
    induction n generalizing g with
    | zero => cases h
    | succ n ih =>
      rcases (walkReaches_succ configs target n g).mp h with rfl | ⟨l, follows, walk⟩
      · exact .refl
      · exact .head follows (ih l walk)
  · intro h
    induction h using Relation.ReflTransGen.head_induction_on with
    | refl => exact (walkReaches_succ configs target 3 target).mpr (.inl rfl)
    | head follows _ ih =>
      rw [← mem_reachers, ← reachers_four configs target (n := 5) (by omega), mem_reachers]
      exact (walkReaches_succ configs target 4 _).mpr (.inr ⟨_, follows, ih⟩)

/-! ## Configurations after CONFIG_GROUP (R52, R53) -/

/-- A chain of leaders with one group's configuration replaced: an old chain, or one that comes through that group. -/
theorem chain_of_replaced {old new : Vector GroupFields 4} {g x h : GroupId} (other : ∀ y : GroupId, y ≠ g → new[y] = old[y])
    (chain : Relation.ReflTransGen (Follows new) x h) :
    Relation.ReflTransGen (Follows old) x h ∨
      Relation.ReflTransGen (Follows new) x g ∧ Relation.ReflTransGen (Follows new) g h := by
  induction chain using Relation.ReflTransGen.head_induction_on with
  | refl => exact .inl .refl
  | @head y z follows rest ih =>
    by_cases e : y = g
    · subst e
      exact .inr ⟨.refl, .head follows rest⟩
    · have followed : Follows old y z := by
        rw [follows_iff_leader, other y e, ← follows_iff_leader] at follows
        exact follows
      exact ih.imp (.head followed) fun ⟨a, b⟩ => ⟨.head follows a, b⟩

/-- A configured FOLLOW group's leader, when the group is in order. -/
theorem leadersOk_iff (s : State) :
    LeadersOk s ↔ ∀ g : GroupId, hasSource s.configs[g] .follow = true →
      ∃ l, Follows s.configs g l ∧ configured s.configs[l] = true ∧ ¬ Relation.ReflTransGen (Follows s.configs) l g := by
  refine forall_congr' fun g => forall_congr' fun follow => exists_congr fun l => ?_
  rw [← walkReaches_four_iff, Bool.not_eq_true, follows_iff_leader, and_iff_right follow]
  constructor
  · rintro ⟨a, -, b, c⟩
    exact ⟨a, b, c⟩
  · rintro ⟨a, b, c⟩
    refine ⟨a, ?_, b, c⟩
    rintro rfl
    rw [(walkReaches_succ s.configs l 3 l).mpr (.inl rfl)] at c
    cases c

theorem applyConfigGroup_configs_get (g h : GroupId) (f : GroupFields) (s : State) :
    (applyConfigGroup g f s).configs[h] = if h = g then f else s.configs[h] := vmod_getElem _ _ _ _

/-- An accepted CONFIG_GROUP keeps the leaders in order (R53, R127, R128). -/
theorem applyConfigGroup_leadersOk {s : State} {g : GroupId} {f : GroupFields} (ok : configGroupStatus s g f = .ok)
    (h : LeadersOk s) : LeadersOk (applyConfigGroup g f s) := by
  obtain ⟨-, free, checks⟩ := configGroupStatus_ok ok
  rw [leadersOk_iff] at h ⊢
  let new := (applyConfigGroup g f s).configs
  have self : new[g] = f := (applyConfigGroup_configs_get g g f s).trans (if_pos rfl)
  have other (y : GroupId) (n : y ≠ g) : new[y] = s.configs[y] := (applyConfigGroup_configs_get g y f s).trans (if_neg n)
  -- No chain of the new configuration leaves the group and comes back to it.
  have noReturn (l : GroupId) (follows : Follows new g l) : ¬ Relation.ReflTransGen (Follows new) l g := by
    obtain ⟨source, leader⟩ := (follows_iff_leader new g l).mp follows
    rw [self] at source leader
    obtain ⟨on, follow⟩ := (hasSource_follow_iff f).mp source
    obtain ⟨-, noLoop, -⟩ := checks on
    have oldWalk : ¬ Relation.ReflTransGen (Follows s.configs) l g := fun chain =>
      noLoop ⟨follow, l, byteGroup_eq_some leader, (walkReaches_four_iff s.configs g l).mpr chain⟩
    intro chain
    refine oldWalk ?_
    clear oldWalk follows leader
    induction chain using Relation.ReflTransGen.head_induction_on with
    | refl => exact .refl
    | @head y z step _ ih =>
      by_cases e : y = g
      · rw [e]
      · refine .head ?_ ih
        rw [follows_iff_leader, other y e, ← follows_iff_leader] at step
        exact step
  intro x follow
  by_cases e : x = g
  · subst e
    change hasSource new[x] .follow = true at follow
    rw [self] at follow
    obtain ⟨on, source⟩ := (hasSource_follow_iff f).mp follow
    obtain ⟨-, -, leaderOn⟩ := checks on
    obtain ⟨inRange, -, -⟩ := configGroupStatus_ok ok
    obtain ⟨-, -, -, -, -, -, leader⟩ := inRange.2 on
    obtain ⟨atMost, notSelf⟩ := leader source
    let l : GroupId := ⟨f.leader.toNat, by omega⟩
    have follows : Follows new x l := by
      rw [follows_iff_leader, self]
      exact ⟨follow, byteGroup_some rfl⟩
    refine ⟨l, follows, ?_, noReturn l follows⟩
    have n : l ≠ x := fun e => notSelf (congrArg Fin.val e)
    change configured new[l] = true
    rw [other l n, configured_iff]
    exact fun off => leaderOn ⟨source, l, rfl, off⟩
  · change hasSource new[x] .follow = true at follow
    rw [other x e] at follow
    obtain ⟨l, follows, on, acyclic⟩ := h x follow
    have newFollows : Follows new x l := by
      rw [follows_iff_leader, other x e, ← follows_iff_leader]
      exact follows
    refine ⟨l, newFollows, ?_, fun chain => ?_⟩
    · change configured new[l] = true
      by_cases lg : l = g
      · subst lg
        rw [self, configured_iff]
        exact fun off => free (.inr (.inr ⟨off, x, e, follows⟩))
      · rw [other l lg]
        exact on
    · rcases chain_of_replaced other chain with old | ⟨toG, fromG⟩
      · exact acyclic old
      · rcases Relation.ReflTransGen.cases_head fromG with rfl | ⟨y, step, rest⟩
        · exact e rfl
        · exact noReturn y step ((rest.tail newFollows).trans toG)

/-- An accepted CONFIG_GROUP keeps the spans disjoint and within the lanes (R49, R128). -/
theorem applyConfigGroup_spansOk {s : State} {g : GroupId} {f : GroupFields} (ok : configGroupStatus s g f = .ok)
    (h : SpansOk s) : SpansOk (applyConfigGroup g f s) := by
  obtain ⟨inRange, -, checks⟩ := configGroupStatus_ok ok
  obtain ⟨within, disjoint⟩ := h
  have apart (x : GroupId) (n : x ≠ g) (lane : Nat) : ¬(inSpan f lane = true ∧ inSpan s.configs[x] lane = true) := fun both => by
    obtain ⟨noShare, -, -⟩ := checks ((configured_iff f).mp (configured_of_inSpan both.1))
    exact noShare ⟨x, n, lane, both⟩
  refine ⟨fun x on => ?_, fun x y n lane both => ?_⟩
  · rw [applyConfigGroup_configs_get] at on ⊢
    split at on
    · rw [if_pos (by assumption)]; exact inRange.span on
    · rw [if_neg (by assumption)]; exact within x on
  · rw [applyConfigGroup_configs_get, applyConfigGroup_configs_get] at both
    split at both <;> split at both
    · rename_i a b; exact n (a.trans b.symm)
    · rename_i b; exact apart y b lane both
    · rename_i a _; exact apart x a lane both.symm
    · exact disjoint x y n lane both

end Sys2Proof.Machine
end

section
/-! SUPPORT. Proofs/Laws.lean: the laws of Safety.lean hold at reset and every step keeps them (R49, R53, R5, R67, R110, R147, R152 and
the ranges of registers), and which commands reach the tables (R73 to R75, R48). -/

namespace Sys2Proof.Machine

open Sys2Proof.Claims

/-! ## The states a command is answered in -/

theorem createJob_rest (c : CtxId) (tag : Word) (p : JobParams) (es : List Extent) (s : State) :
    { createJob c tag p es s with jobs := s.jobs, lists := s.lists, slots := s.slots, slotWait := s.slotWait } = s := by
  unfold createJob
  split
  · generalize waiting : joinWait c (joinList c p.group (fillContext c (newJob tag p es) s)) = u
    obtain ⟨same, -⟩ := grant_grant u
    calc
      _ = { ({ grant u with jobs := u.jobs, slots := u.slots, slotWait := u.slotWait } : State) with
            jobs := s.jobs, lists := s.lists, slots := s.slots, slotWait := s.slotWait } := rfl
      _ = s := by
        rw [same, ← waiting]
        simp only [joinWait, setJobState, modJob, setWait, joinList, fillContext]
  · rfl

theorem createJob_lists (c : CtxId) (tag : Word) (p : JobParams) (es : List Extent) (s : State) (g : GroupId) :
    (createJob c tag p es s).lists[g] = if g = p.group then s.lists[g] ++ [c] else s.lists[g] := by
  have joined : (createJob c tag p es s).lists = (joinList c p.group s).lists := by
    unfold createJob
    split
    · exact (grant_grant _).fields.1
    · rfl
  rw [joined, joinList_get]
  split
  · rename_i e; rw [e]
  · rfl

/-- Whatever a command has done to its block, RUN, the Command Processor but for `voidReads` and INT_MOD are as they were, no group has
more waiters, and the holding list and the clock are in their ranges. -/
structure Aside (s u : State) : Prop where
  run : u.run = s.run
  cp : { u.cp with voidReads := s.cp.voidReads } = s.cp
  intMod : u.intMod = s.intMod
  clock : ClockInRange s → ClockInRange u
  waiters (g : GroupId) : u.groups[g].waiters.length ≤ s.groups[g].waiters.length
  holding : s.holding.length + bit s.cp.reserved ≤ 8 → u.holding.length + bit s.cp.reserved ≤ 8

theorem Quiet.aside {s t : State} (h : Quiet s t) : Aside s t := ⟨h.run, h.cp, h.intMod, h.clock, h.waiters, h.holding⟩

theorem Prepared.aside {c : Instr} {s u : State} (h : Prepared c s u) : Aside s u := by
  cases h with
  | quiet h => exact h.aside
  | config command ok =>
    refine ⟨rfl, rfl, rfl, id, fun g => ?_, id⟩
    show (vmod s.groups _ _)[g].waiters.length ≤ _
    rw [vmod_getElem]
    split
    · rename_i e; rw [e]
    · exact le_rfl
  | lanes | profile => exact ⟨rfl, rfl, rfl, id, fun _ => le_rfl, id⟩
  | @job x tag p extents =>
    have e := createJob_rest x tag p extents s
    generalize createJob x tag p extents s = u at e ⊢
    rw [← e]
    exact ⟨rfl, rfl, rfl, id, fun _ => le_rfl, id⟩

namespace Aside
variable {s u : State} (h : Aside s u)
include h

theorem cpState : u.cp.state = s.cp.state := by have e := congrArg CommandProcessor.state h.cp; exact e
theorem reserved : u.cp.reserved = s.cp.reserved := by have e := congrArg CommandProcessor.reserved h.cp; exact e
theorem priority : u.cp.priority = s.cp.priority := by have e := congrArg CommandProcessor.priority h.cp; exact e
theorem normal : u.cp.normal = s.cp.normal := by have e := congrArg CommandProcessor.normal h.cp; exact e
theorem count : u.cp.count = s.cp.count := by have e := congrArg CommandProcessor.count h.cp; exact e

end Aside

/-- A take decision changes nothing, stops taking after a fault, or reads a record of a ring in use (R111 to R113). -/
theorem takeDecision_cases (s : State) :
    takeDecision s = s ∨
      s.cp.state = .looking ∧
        ((∃ u, Quiet s u ∧ takeDecision s = stopTaking u) ∨
          ∃ r, (ringRegs s.cp r).size ≠ 0 ∧ takeDecision s = issueRecordRead r s) := by
  by_cases looking : s.cp.state = .looking
  · cases bad : producerBad s.cp.priority with
    | true => exact .inr ⟨looking, .inl ⟨_, handFault_quiet _ _ _ s, takeDecision_priority_bad looking bad⟩⟩
    | false =>
      cases bad' : producerBad s.cp.normal with
      | true => exact .inr ⟨looking, .inl ⟨_, handFault_quiet _ _ _ s, takeDecision_normal_bad looking bad bad'⟩⟩
      | false =>
        cases chosen : chooseRing s.cp with
        | none => exact .inl (takeDecision_none bad bad' chosen)
        | some r =>
          refine .inr ⟨looking, .inr ⟨r, ?_, takeDecision_some looking bad bad' chosen⟩⟩
          rw [chooseRing_eq] at chosen
          split at chosen
          · rename_i h
            cases chosen
            exact ((holdsRecords_iff _).mp h.1).1
          · split at chosen
            · rename_i h
              cases chosen
              exact ((holdsRecords_iff _).mp h).1
            · cases chosen
  · exact .inl (takeDecision_other looking)

/-- Every field but those a decision of the Command Processor, a write of RUN or a parked command can change is as it was. -/
def CpFrame (s t : State) : Prop :=
  { t with run := s.run, cp := s.cp, fault := s.fault, condition := s.condition, link := s.link } = s

namespace CpFrame

theorem trans {s t u : State} (h : CpFrame s t) (k : CpFrame t u) : CpFrame s u := by
  unfold CpFrame at *
  calc
    _ = { ({ u with run := t.run, cp := t.cp, fault := t.fault, condition := t.condition, link := t.link } : State) with
          run := s.run, cp := s.cp, fault := s.fault, condition := s.condition, link := s.link } := rfl
    _ = _ := by rw [k]; exact h

theorem fields {s t : State} (h : CpFrame s t) :
    t.configs = s.configs ∧ t.lanes = s.lanes ∧ t.profiles = s.profiles ∧ t.intMod = s.intMod ∧ t.clock = s.clock ∧
      t.divider = s.divider ∧ t.dividerHeld = s.dividerHeld ∧ t.lists = s.lists ∧ t.groups = s.groups := by
  unfold CpFrame at h
  rw [← h]
  exact ⟨rfl, rfl, rfl, rfl, rfl, rfl, rfl, rfl, rfl⟩

end CpFrame

theorem handFault_cpFrame (kind : FaultKinds) (ring : FaultRing) (index : Short) (s : State) :
    CpFrame s (handFault kind ring index s) := by
  have e := handFault_rest kind ring index s
  unfold CpFrame
  generalize handFault kind ring index s = t at e ⊢
  rw [← e]

theorem stopTaking_cpFrame (s : State) : CpFrame s (stopTaking s) := rfl

theorem takeDecision_cpFrame (s : State) : CpFrame s (takeDecision s) := by
  unfold takeDecision
  split
  · split
    · exact (handFault_cpFrame _ _ _ s).trans (stopTaking_cpFrame _)
    · split
      · exact (handFault_cpFrame _ _ _ s).trans (stopTaking_cpFrame _)
      · split <;> rfl
  · rfl

theorem enterLooking_cpFrame (s : State) : CpFrame s (enterLooking s) :=
  CpFrame.trans (t := setCp .looking s) rfl (takeDecision_cpFrame _)

theorem takeReservation_cpFrame (s : State) : CpFrame s (takeReservation s) := by
  unfold takeReservation
  split
  · exact CpFrame.trans (t := modCp _ s) rfl (enterLooking_cpFrame _)
  · rfl

theorem endParked_cpFrame (r : SubRing) (s : State) : CpFrame s (endParked r s) := by
  unfold endParked
  extract_lets t
  split
  · exact CpFrame.trans (t := t) rfl (enterLooking_cpFrame t)
  · rfl

theorem writeRun_cpFrame (v : Bool) (s : State) : CpFrame s (writeRun v s) := by
  have start : CpFrame s (startRun s) := by
    unfold startRun
    split
    · exact handFault_cpFrame _ _ _ s
    · unfold leaveStopped
      split
      · split
        · exact CpFrame.trans (t := { s with run := true }) rfl (enterLooking_cpFrame _)
        · rfl
      · rfl
  unfold writeRun
  split
  · rfl
  · split
    · split
      · rfl
      · exact start
    · unfold clearRun
      extract_lets t
      split <;> rfl

/-! ## Holding list and Command Processor (R110, R152) -/

theorem holdingOk_iff (s : State) : HoldingOk s ↔ s.holding.length + bit s.cp.reserved ≤ 8 ∧ CpStateOk s := Iff.rfl

theorem Quiet.cpStateOk {s t : State} (h : Quiet s t) (k : CpStateOk s) : CpStateOk t := by
  unfold CpStateOk at *
  rw [h.cpState, h.run, h.reserved]
  exact k

theorem Quiet.holdingOk {s t : State} (h : Quiet s t) (k : HoldingOk s) : HoldingOk t := by
  refine ⟨?_, h.cpStateOk k.2⟩
  rw [h.reserved]
  exact h.holding k.1

theorem reserved_of_inProgress {s : State} {r : SubRing} (h : CpStateOk s) (busy : InProgress s r) : s.cp.reserved = true := by
  unfold CpStateOk at h
  rcases busy with ⟨e, reading⟩ | ⟨e, a, reading⟩ <;> rw [reading] at h <;> exact h

theorem takeDecision_holdingOk {s : State} (h : HoldingOk s) : HoldingOk (takeDecision s) := by
  rcases takeDecision_cases s with same | ⟨looking, ⟨u, quiet, stopped⟩ | ⟨r, -, reading⟩⟩
  · rwa [same]
  · rw [stopped]
    exact ⟨(quiet.holdingOk h).1, rfl⟩
  · rw [reading]
    have reserved : s.cp.reserved = true := by
      have k := h.2
      unfold CpStateOk at k
      rw [looking] at k
      exact k.2
    exact ⟨h.1, reserved⟩

theorem takeReservation_holdingOk {s : State} (h : HoldingOk s) : HoldingOk (takeReservation s) := by
  unfold takeReservation
  split
  · rename_i free
    obtain ⟨reserving, room⟩ := free
    have k := h.2
    unfold CpStateOk at k
    rw [reserving] at k
    exact takeDecision_holdingOk ⟨Nat.succ_le_of_lt room, k.1, rfl⟩
  · exact h

theorem respond_holdingOk {s u : State} {r : SubRing} {id : Short} {status : Status} {value : Word} (aside : Aside s u)
    (busy : InProgress s r) (h : HoldingOk s) : HoldingOk (respond r id status value u) := by
  have room := aside.holding h.1
  rw [reserved_of_inProgress h.2 busy] at room
  rw [respond_eq]
  refine ⟨?_, ?_⟩
  · show (u.holding ++ _).length + 0 ≤ 8
    rw [List.length_append, List.length_singleton]
    exact room
  · unfold CpStateOk
    cases u.run with
    | true => exact ⟨rfl, rfl⟩
    | false => rfl

theorem endParked_holdingOk {s : State} {r : SubRing} (busy : InProgress s r) (h : HoldingOk s) : HoldingOk (endParked r s) := by
  have reserved := reserved_of_inProgress h.2 busy
  have kept : (consumed r s.cp).reserved = s.cp.reserved := by cases r <;> rfl
  have room : s.holding.length + bit (consumed r s.cp).reserved ≤ 8 := by rw [kept]; exact h.1
  cases run : s.run with
  | true =>
    rw [endParked_running run]
    exact takeDecision_holdingOk ⟨room, run, kept.trans reserved⟩
  | false =>
    rw [endParked_stopped run]
    exact ⟨room, run⟩

/-- The Command Processor's states while RUN is 0: STOPPED, or in a command (R110). -/
theorem writeRun_holdingOk (v : Bool) {s : State} (h : HoldingOk s) : HoldingOk (writeRun v s) := by
  obtain ⟨room, ok⟩ := h
  have cleared : HoldingOk (clearRun s) := by
    unfold clearRun
    extract_lets t
    split
    · exact ⟨room, rfl⟩
    · rename_i waiting
      refine ⟨room, ?_⟩
      unfold CpStateOk at *
      cases state : s.cp.state with
      | stopped => simp [t]
      | reserving => exact absurd (.inl state) waiting
      | looking => exact absurd (.inr state) waiting
      | record | auxiliary => rw [state] at ok; simpa [t, state] using ok
  have started (off : s.run = false) : HoldingOk (startRun s) := by
    unfold startRun
    split
    · exact (handFault_quiet _ _ _ s).holdingOk ⟨room, ok⟩
    · unfold leaveStopped
      split
      · split
        · rename_i reserved
          exact takeDecision_holdingOk ⟨room, rfl, reserved⟩
        · rename_i reserved
          exact ⟨room, rfl, Bool.not_eq_true _ ▸ reserved⟩
      · rename_i notStopped
        refine ⟨room, ?_⟩
        unfold CpStateOk at *
        cases state : s.cp.state with
        | stopped => exact absurd state notStopped
        | reserving | looking => rw [state, off] at ok; cases ok.1
        | record | auxiliary => rw [state] at ok; simpa [state] using ok
  unfold writeRun
  split
  · exact ⟨room, ok⟩
  · split
    · split
      · exact ⟨room, ok⟩
      · rename_i off; exact started (by simpa using off)
    · exact cleared

theorem takeEngineReset_holdingOk (s : State) : HoldingOk (takeEngineReset s) := by
  unfold takeEngineReset
  split <;> exact ⟨Nat.zero_le _, rfl⟩

theorem execDeviceReset_next {s t : State} (h : execDeviceReset s = .next t) :
    { t with clock := State.reset.clock, divider := 1, inReset := none, link := [], pending := [] } = State.reset := by
  cases h
  rfl

theorem Effect.holdingOk {c : Instr} {s t : State} (h : HoldingOk s) (k : Effect c s t) : HoldingOk t := by
  cases k with
  | quiet q => exact q.holdingOk h
  | answered busy prepared => exact respond_holdingOk prepared.aside busy h
  | parked busy room => exact endParked_holdingOk (s := parkWaiter _ _ s) busy h
  | reading busy fits =>
    have reserved := reserved_of_inProgress h.2 busy
    exact ⟨h.1, reserved⟩
  | decision q => exact takeDecision_holdingOk (q.holdingOk h)
  | reservation q => exact takeReservation_holdingOk (q.holdingOk h)
  | stops q => exact ⟨(q.holdingOk h).1, rfl⟩
  | run v => exact writeRun_holdingOk v h
  | divider v => exact h
  | ringBase r | ringSize open_ r => cases r <;> exact h
  | ringProducer r v => cases r <;> exact takeDecision_holdingOk h
  | intMod threshold age => exact (evalInterrupt_quiet _).holdingOk (s := { s with intMod := _ }) h
  | engineReset => exact takeEngineReset_holdingOk s
  | deviceReset command reset =>
    cases reset
    exact ⟨Nat.zero_le _, rfl⟩

/-- Settles O53, by what a command can do to RUN, the Command Processor and the holding list. -/
theorem stepsKeepHoldingListInOrder : Obligations.StepsKeepHoldingListInOrder :=
  fun _ _ => step_keeps (fun _ _ h => h) fun _ _ _ h k => k.holdingOk h

/-! ## Spans and leaders (R49, R53) -/

/-- The configurations after a command: as they were, those of an accepted CONFIG_GROUP, or those of a device reset. -/
theorem Effect.configs {c : Instr} {s t : State} (k : Effect c s t) :
    t.configs = s.configs ∨
      (∃ id target f g, c = .configGroup id target f ∧ configGroupStatus s g f = .ok ∧
        t.configs = (applyConfigGroup g f s).configs) ∨
      c = .deviceReset ∧ t.configs = State.reset.configs := by
  have kept {u v : State} (h : CpFrame u v) (k : u.configs = s.configs) : v.configs = s.configs := h.fields.1.trans k
  cases k with
  | quiet q | stops q => exact .inl q.configs
  | answered busy prepared =>
    cases prepared with
    | quiet q => exact .inl q.configs
    | config command ok => exact .inr (.inl ⟨_, _, _, _, command, ok, rfl⟩)
    | lanes | profile => exact .inl rfl
    | @job x tag p extents =>
      have e := congrArg State.configs (createJob_rest x tag p extents s)
      exact .inl e
  | parked busy room => exact .inl (kept (endParked_cpFrame _ _) rfl)
  | decision q => exact .inl (kept (takeDecision_cpFrame _) q.configs)
  | reservation q => exact .inl (kept (takeReservation_cpFrame _) q.configs)
  | run v => exact .inl (kept (writeRun_cpFrame v s) rfl)
  | reading | divider | ringBase | ringSize => exact .inl rfl
  | ringProducer r v => exact .inl (kept (takeDecision_cpFrame _) rfl)
  | intMod => exact .inl (evalInterrupt_quiet { s with intMod := _ }).configs
  | engineReset =>
    left
    unfold takeEngineReset
    split <;> rfl
  | deviceReset command reset =>
    cases reset
    exact .inr (.inr ⟨command, rfl⟩)

theorem spansOk_of_configs {s t : State} (h : t.configs = s.configs) (k : SpansOk s) : SpansOk t := by
  unfold SpansOk
  rw [h]
  exact k

theorem leadersOk_of_configs {s t : State} (h : t.configs = s.configs) (k : LeadersOk s) : LeadersOk t := by
  unfold LeadersOk
  rw [h]
  exact k

/-- A configuration after device reset: every group is OFF (R51). -/
theorem reset_configs_get (g : GroupId) : State.reset.configs[g] = GroupFields.reset := Vector.getElem_replicate _

theorem spansOk_reset : SpansOk State.reset := by
  refine ⟨fun g on => ?_, fun g h _ lane both => ?_⟩
  · rw [reset_configs_get] at on
    cases on
  · rw [reset_configs_get, inSpan_off rfl] at both
    cases both.1

theorem leadersOk_reset : LeadersOk State.reset := fun g follow => by
  rw [reset_configs_get] at follow
  cases follow

/-- Settles O54: configurations change only by an accepted CONFIG_GROUP, whose checks keep the spans apart, and at a device reset. -/
theorem stepsKeepSpansDisjoint : Obligations.StepsKeepSpansDisjoint := by
  refine fun s t => step_keeps (fun _ _ h => h) fun c s t h k => ?_
  rcases k.configs with same | ⟨-, -, f, g, -, ok, same⟩ | ⟨-, same⟩
  · exact spansOk_of_configs same h
  · exact spansOk_of_configs same (applyConfigGroup_spansOk ok h)
  · exact spansOk_of_configs same spansOk_reset

/-- Settles O55: an accepted CONFIG_GROUP closes no chain of leaders and turns off no leader. -/
theorem stepsKeepLeadersAcyclic : Obligations.StepsKeepLeadersAcyclic := by
  refine fun s t => step_keeps (fun _ _ h => h) fun c s t h k => ?_
  rcases k.configs with same | ⟨-, -, f, g, -, ok, same⟩ | ⟨-, same⟩
  · exact leadersOk_of_configs same h
  · exact leadersOk_of_configs same (applyConfigGroup_leadersOk ok h)
  · exact leadersOk_of_configs same leadersOk_reset

/-! ## Lists and waiters (R5, R67, R117) -/

/-- The lists and the waiters of a part in order, the START_JOB in flight left aside. -/
def ListsBounded (s : State) : Prop :=
  (∀ g : GroupId, s.lists[g].length ≤ 4) ∧ ∀ g : GroupId, s.groups[g].waiters.length ≤ 4

theorem ListsBounded.of_le {s t : State} (h : ListsBounded s) (lists : ∀ g : GroupId, t.lists[g].length ≤ s.lists[g].length)
    (waiters : ∀ g : GroupId, t.groups[g].waiters.length ≤ s.groups[g].waiters.length) : ListsBounded t :=
  ⟨fun g => (lists g).trans (h.1 g), fun g => (waiters g).trans (h.2 g)⟩

theorem CpFrame.listsBounded {s t : State} (h : CpFrame s t) (k : ListsBounded s) : ListsBounded t := by
  obtain ⟨-, -, -, -, -, -, -, lists, groups⟩ := h.fields
  unfold ListsBounded
  rw [lists, groups]
  exact k

theorem listsOk_iff (s : State) : ListsOk s ↔ ListsBounded s ∧ AuxListOk s := and_assoc.symm

/-- No START_JOB reads its table. -/
def NoStartInFlight (s : State) : Prop := ∀ r e id tag p, s.cp.state ≠ .auxiliary r e (.startJob id tag p)

theorem NoStartInFlight.auxListOk {s : State} (h : NoStartInFlight s) : AuxListOk s := by
  unfold AuxListOk
  split
  · rename_i state
    exact absurd state (h _ _ _ _ _)
  all_goals trivial

theorem auxListOk_iff (s : State) :
    AuxListOk s ↔ ∀ r e id tag p, s.cp.state = .auxiliary r e (.startJob id tag p) → s.lists[p.group].length < 4 := by
  unfold AuxListOk
  split
  · rename_i state
    rw [state]
    refine ⟨fun h r e id tag p same => ?_, fun h => h _ _ _ _ _ rfl⟩
    cases same
    exact h
  all_goals
    rename_i state
    rw [state]
    exact ⟨fun _ _ _ _ _ _ other => (nomatch other), fun _ => trivial⟩

theorem takeDecision_auxListOk {s : State} (h : AuxListOk s) : AuxListOk (takeDecision s) := by
  rcases takeDecision_cases s with same | ⟨-, ⟨u, -, stopped⟩ | ⟨r, -, reading⟩⟩
  · rwa [same]
  · rw [stopped]; trivial
  · rw [reading]; trivial

theorem Quiet.listsOk {s t : State} (h : Quiet s t) (k : ListsOk s) : ListsOk t := by
  rw [listsOk_iff, auxListOk_iff] at *
  refine ⟨k.1.of_le h.lists h.waiters, fun r e id tag p state => ?_⟩
  rw [h.cpState] at state
  exact (h.lists _).trans_lt (k.2 r e id tag p state)

theorem takeDecision_listsOk {s : State} (h : ListsOk s) : ListsOk (takeDecision s) := by
  rw [listsOk_iff] at *
  exact ⟨(takeDecision_cpFrame s).listsBounded h.1, takeDecision_auxListOk h.2⟩

theorem Prepared.listsBounded {c : Instr} {s u : State} (h : Prepared c s u) (k : ListsOk s) : ListsBounded u := by
  rw [listsOk_iff, auxListOk_iff] at k
  obtain ⟨bounded, inFlight⟩ := k
  have waiters := h.aside.waiters
  cases h with
  | quiet q => exact bounded.of_le q.lists q.waiters
  | config | lanes | profile => exact bounded.of_le (fun _ => le_rfl) waiters
  | @job x tag p extents room =>
    have free : s.lists[p.group].length < 4 := by
      rcases room with free | ⟨r, e, id, tag, state⟩
      · exact free
      · exact inFlight r e id tag p state
    refine ⟨fun g => ?_, fun g => (waiters g).trans (bounded.2 g)⟩
    rw [createJob_lists]
    split
    · rename_i e
      rw [e, List.length_append]
      exact free
    · exact bounded.1 g

theorem respond_cpState (r : SubRing) (id : Short) (status : Status) (value : Word) (s : State) :
    (respond r id status value s).cp.state = if s.run then .reserving else .stopped := rfl

theorem Effect.listsOk {c : Instr} {s t : State} (h : ListsOk s) (k : Effect c s t) : ListsOk t := by
  have bounded := ((listsOk_iff s).mp h).1
  cases k with
  | quiet q => exact q.listsOk h
  | @answered r id status value u busy prepared =>
    refine (listsOk_iff _).mpr ⟨prepared.listsBounded h, NoStartInFlight.auxListOk fun r e id tag p state => ?_⟩
    rw [respond_cpState] at state
    split at state <;> cases state
  | @parked r g id busy room =>
    have parkedBounded : ListsBounded (parkWaiter g id s) := by
      refine ⟨bounded.1, fun h => ?_⟩
      show (modGroup g _ s).groups[h].waiters.length ≤ 4
      rw [modGroup_get]
      split
      · rw [List.length_append]; exact room
      · exact bounded.2 h
    refine (listsOk_iff _).mpr ⟨(endParked_cpFrame r _).listsBounded parkedBounded, ?_⟩
    cases run : s.run with
    | true =>
      rw [endParked_running (s := parkWaiter g id s) run]
      exact takeDecision_auxListOk trivial
    | false =>
      rw [endParked_stopped (s := parkWaiter g id s) run]
      trivial
  | @reading r address a busy fits =>
    refine (listsOk_iff _).mpr ⟨bounded, (auxListOk_iff _).mpr fun r' e id tag p state => ?_⟩
    rw [issueTableRead_eq] at state
    cases state
    exact fits id tag p rfl
  | decision q => exact takeDecision_listsOk (q.listsOk h)
  | @reservation u q =>
    have ok := q.listsOk h
    unfold takeReservation
    split
    · refine takeDecision_listsOk ((listsOk_iff _).mpr ⟨((listsOk_iff u).mp ok).1, trivial⟩)
    · exact ok
  | stops q => exact (listsOk_iff _).mpr ⟨((listsOk_iff _).mp (q.listsOk h)).1, trivial⟩
  | run v =>
    refine (listsOk_iff _).mpr ⟨(writeRun_cpFrame v s).listsBounded bounded, ?_⟩
    have aux := ((listsOk_iff s).mp h).2
    unfold writeRun
    split
    · exact aux
    · split
      · split
        · exact aux
        · unfold startRun
          split
          · exact ((listsOk_iff _).mp ((handFault_quiet _ _ _ s).listsOk h)).2
          · unfold leaveStopped
            split
            · split
              · exact takeDecision_auxListOk trivial
              · trivial
            · exact aux
      · unfold clearRun
        extract_lets t
        split
        · trivial
        · exact aux
  | divider => exact h
  | intMod => exact (evalInterrupt_quiet _).listsOk (s := { s with intMod := _ }) h
  | ringBase r | ringSize open_ r => cases r <;> exact h
  | ringProducer r v => cases r <;> exact takeDecision_listsOk h
  | engineReset =>
    unfold takeEngineReset
    split <;> refine ⟨fun g => ?_, fun g => ?_, trivial⟩
    all_goals simp [emptied, endResetting, startClocks, GroupState.reset, Config.listCapacity, Config.waiterCapacity]
  | deviceReset command reset =>
    cases reset
    refine ⟨fun g => ?_, fun g => ?_, trivial⟩
    all_goals simp [State.reset, GroupState.reset, Config.listCapacity, Config.waiterCapacity]

/-- Settles O56: a list grows by START_JOB alone, which finds room at its record or has found it for its table, and the waiters by a
parked DRAIN_GROUP. -/
theorem stepsKeepListsBounded : Obligations.StepsKeepListsBounded :=
  fun _ _ => step_keeps (fun _ _ h => h) fun _ _ _ h k => k.listsOk h

end Sys2Proof.Machine
end

section
/-! SUPPORT. Proofs/Ranges.lean: every register stays in its range (R47, R74, R107, R112, R147, R157, R163), the completion ring's indices
and write times (R147, R148, R150), and the laws at reset. -/

namespace Sys2Proof.Machine

open Sys2Proof.Claims

/-! ## The completion ring (R147, R148, R150) -/

theorem size_of_valid {size : Short} (h : Config.validCompletionSize size = true) : 16 ≤ size.toNat := by
  unfold Config.validCompletionSize at h
  simp only [List.contains_eq_mem, List.mem_cons, List.not_mem_nil, or_false, decide_eq_true_eq] at h
  omega

theorem completionOk_of_comp {s t : State} (h : t.comp = s.comp) (k : CompletionOk s) : CompletionOk t := by
  unfold CompletionOk
  rw [h]
  exact k

/-- A difference of two indices modulo SIZE. -/
theorem sub_mod_size {a b n : Nat} (ha : a < n) (hb : b < n) : (a + n - b) % n = if b ≤ a then a - b else a + n - b := by
  split
  · rw [show a + n - b = a - b + n by omega, Nat.add_mod_right, Nat.mod_eq_of_lt (by omega)]
  · rw [Nat.mod_eq_of_lt (by omega)]

theorem unreleased_eq {c : CompletionRing} (hp : c.producer.toNat < c.size.toNat) (hc : c.consumer.toNat < c.size.toNat) :
    unreleased c = if c.consumer.toNat ≤ c.producer.toNat then c.producer.toNat - c.consumer.toNat
      else c.producer.toNat + c.size.toNat - c.consumer.toNat := sub_mod_size hp hc

/-- A CONSUMER write that is taken releases the entries it passes, oldest first (R150). -/
theorem released_completionOk {s : State} {v : Short} (ok : CompletionOk s) (good : consumerOk s.comp v = true) :
    CompletionOk { s with comp := released s.comp v } := by
  cases valid : Config.validCompletionSize s.comp.size with
  | false => rw [released_invalid v valid]; exact ok
  | true =>
    obtain ⟨hp, hc, times⟩ := completionOk_valid ok valid
    rw [consumerOk, if_pos valid, decide_eq_true_iff] at good
    obtain ⟨below, within⟩ := good
    have passes : passedEntries s.comp v = _ := sub_mod_size below hc
    have ring : released s.comp v = { s.comp with consumer := v, times := s.comp.times.drop (passedEntries s.comp v) } := by
      rw [released, if_pos valid]
    rw [unreleased_eq hp hc] at times within
    rw [ring]
    unfold CompletionOk
    rw [if_pos (show Config.validCompletionSize s.comp.size = true from valid)]
    refine ⟨hp, below, ?_⟩
    rw [unreleased_eq (c := { s.comp with consumer := v, times := _ }) hp below]
    simp only [List.length_drop, times]
    rw [passes] at within ⊢
    split_ifs at within ⊢ <;> omega

/-- A ring write to a ring that is not full adds an entry and its write time (R148). -/
theorem posted_completionOk {s t : State} (ok : CompletionOk s) (may : mayPost s = true) (h : t.comp = posted s.comp s.clock.now) :
    CompletionOk t := by
  simp only [mayPost, Bool.and_eq_true, Bool.not_eq_true', ringFull, decide_eq_false_iff_not] at may
  obtain ⟨⟨⟨valid, notFull⟩, -⟩, -⟩ := may
  obtain ⟨hp, hc, times⟩ := completionOk_valid ok valid
  have small := s.comp.size.isLt
  have next : (s.comp.producer.toNat + 1) % s.comp.size.toNat < s.comp.size.toNat := Nat.mod_lt _ (by omega)
  have stored : (BitVec.ofNat 16 ((s.comp.producer.toNat + 1) % s.comp.size.toNat)).toNat =
      (s.comp.producer.toNat + 1) % s.comp.size.toNat := by
    rw [BitVec.toNat_ofNat, Nat.mod_eq_of_lt (by omega)]
  have wraps : (s.comp.producer.toNat + 1) % s.comp.size.toNat =
      if s.comp.producer.toNat + 1 = s.comp.size.toNat then 0 else s.comp.producer.toNat + 1 := by
    split
    · rename_i e; rw [e, Nat.mod_self]
    · rw [Nat.mod_eq_of_lt (by omega)]
  have count := unreleased_eq (c := posted s.comp s.clock.now) (stored.trans_lt next) hc
  rw [unreleased_eq hp hc] at times
  unfold CompletionOk
  rw [h, if_pos (show Config.validCompletionSize (posted s.comp s.clock.now).size = true from valid), count]
  refine ⟨stored.trans_lt next, hc, ?_⟩
  simp only [posted, List.length_append, List.length_singleton, times, stored]
  rw [wraps] at notFull ⊢
  split_ifs at notFull ⊢ <;> omega

theorem freeJob_comp (r : CompRecord) (s : State) : (freeJob r s).comp = s.comp := by cases r <;> rfl

theorem giveEntry_comp (s : State) : (giveEntry s).comp = s.comp := by
  unfold giveEntry
  split
  · exact (settleOffers_frame _ s).comp
  · exact takeReservation_comp s

theorem writeRecord_comp (r : CompRecord) (rest : List CompRecord) (s : State) :
    (writeRecord r rest s).comp = posted s.comp s.clock.now := by
  rw [writeRecord, giveEntry_comp, freeJob_comp, evalInterrupt_comp]
  rfl

/-- A ring whose indices are 0 and which has no write time is in order at any SIZE. -/
theorem completionOk_of_empty {s : State} (hp : s.comp.producer = 0) (hc : s.comp.consumer = 0) (ht : s.comp.times = []) :
    CompletionOk s := by
  unfold CompletionOk
  split
  · rename_i valid
    have := size_of_valid valid
    rw [unreleased_of_indices_zero hp hc, hp, hc, ht]
    exact ⟨show 0 < _ by omega, show 0 < _ by omega, rfl⟩
  · exact ⟨hp, hc, ht⟩

theorem exec_completionOk {c : Instr} {s t : State} (ok : CompletionOk s) (h : exec c s = .next t) : CompletionOk t := by
  have host {f : State → State} (hf : CompletionOk (f s)) (h : (Host.Outcome.next (hostWrite f s) : Result) = .next t) :
      CompletionOk t := by
    cases h
    rcases hostWrite_cases f s with e | e <;> rw [e] <;> assumption
  cases c with
  | deviceReset => cases h; exact completionOk_of_empty rfl rfl rfl
  | engineReset v =>
    rcases exec_engineReset_cases h with ⟨-, rfl⟩ | rfl
    · refine completionOk_of_empty ?_ ?_ ?_ <;> rw [takeEngineReset_comp] <;> rfl
    · exact ok
  | completionBase half v =>
    refine host ?_ h
    split <;> exact ok
  | completionSize v =>
    refine host ?_ h
    split
    · refine completionOk_of_comp (evalInterrupt_comp _) ?_
      exact completionOk_of_empty rfl rfl rfl
    · exact ok
  | consumer v =>
    refine host ?_ h
    unfold writeConsumer
    split
    · exact ok
    · split
      · rename_i good
        exact completionOk_of_comp (evalInterrupt_comp _) (released_completionOk ok good)
      · exact completionOk_of_comp (s := stopPosting s) (handFault_comp _ _ _ _) ok
  | completionWrite =>
    cases h
    split
    · exact ok
    · split
      · rename_i may
        exact posted_completionOk ok may (writeRecord_comp _ _ s)
      · exact ok
  | _ => exact completionOk_of_comp (exec_comp rfl h) ok

/-- A law that does not read the queue, that the passing of a REFCLK period keeps and that every command keeps is kept by every step. -/
theorem step_keeps_of_exec {law : State → Prop} (queue : ∀ (s : State) (q : List Instr), law s → law { s with pending := q })
    (idle : ∀ s, law s → law (advance 1 s)) (keeps : ∀ (c : Instr) (s t : State), law s → exec c s = .next t → law t)
    {s t : State} (h : law s) (k : step s = .next t) : law t := by
  unfold step at k
  split at k
  · cases k
    exact idle s h
  · exact keeps _ _ t (queue s _ h) k

/-- Settles O57: six commands reach the ring, and each leaves its indices in range with one write time for each entry. -/
theorem stepsKeepCompletionRingInOrder : Obligations.StepsKeepCompletionRingInOrder :=
  fun _ _ => step_keeps_of_exec (fun _ _ h => h) (fun _ h => h) fun _ _ _ => exec_completionOk

/-! ## Registers (R47, R74, R107, R112, R147, R157, R163) -/

theorem down64_toNat (a : Addr) : (down64 a).toNat = a.toNat / 64 * 64 := by
  have h := a.isLt
  simp only [down64, BitVec.toNat_append, BitVec.extractLsb'_toNat, Nat.shiftRight_eq_div_pow]
  rw [show (0 : BitVec 6).toNat = 0 from rfl, Nat.or_zero, Nat.shiftLeft_eq, Nat.mod_eq_of_lt (by omega)]

theorem down32_toNat (a : Addr) : (down32 a).toNat = a.toNat / 32 * 32 := by
  have h := a.isLt
  simp only [down32, BitVec.toNat_append, BitVec.extractLsb'_toNat, Nat.shiftRight_eq_div_pow]
  rw [show (0 : BitVec 5).toNat = 0 from rfl, Nat.or_zero, Nat.shiftLeft_eq, Nat.mod_eq_of_lt (by omega)]

/-- The completion BASE is a multiple of 32 (R147). -/
def CompBaseOk (s : State) : Prop := s.comp.base.toNat % 32 = 0

theorem exec_compBaseOk {c : Instr} {s t : State} (ok : CompBaseOk s) (h : exec c s = .next t) : CompBaseOk t := by
  have of_comp {u : State} (e : u.comp.base = s.comp.base) : CompBaseOk u := by unfold CompBaseOk; rw [e]; exact ok
  have host {f : State → State} (hf : CompBaseOk (f s)) (h : (Host.Outcome.next (hostWrite f s) : Result) = .next t) :
      CompBaseOk t := by
    cases h
    rcases hostWrite_cases f s with e | e <;> rw [e] <;> assumption
  cases c with
  | deviceReset => cases h; exact Nat.zero_mod 32
  | engineReset v =>
    rcases exec_engineReset_cases h with ⟨-, rfl⟩ | rfl
    · exact of_comp (by rw [takeEngineReset_comp]; rfl)
    · exact ok
  | completionBase half v =>
    refine host ?_ h
    split
    · show (down32 _).toNat % 32 = 0
      rw [down32_toNat, Nat.mul_mod_left]
    · exact ok
  | completionSize v =>
    refine host ?_ h
    split
    · exact of_comp (by rw [evalInterrupt_comp])
    · exact ok
  | consumer v =>
    refine host ?_ h
    unfold writeConsumer
    split
    · exact ok
    · split
      · refine of_comp ?_
        rw [evalInterrupt_comp]
        unfold released
        split <;> rfl
      · have e := congrArg CompletionRing.base (handFault_comp kindCompIndex .completion v (stopPosting s))
        exact of_comp e
  | completionWrite =>
    cases h
    split
    · exact ok
    · split
      · rename_i r rest _ _
        have e := congrArg CompletionRing.base (writeRecord_comp r rest s)
        exact of_comp e
      · exact ok
  | _ => exact of_comp (congrArg CompletionRing.base (exec_comp rfl h))

/-- A submission ring of the part is in its ranges: BASE a multiple of 64, CONSUMER below SIZE (R107). -/
def RingOk (s : State) (r : SubRing) : Prop := (ringRegs s.cp r).base.toNat % 64 = 0 ∧ ConsumerOk s r (ringRegs s.cp r)

/-- The Command Processor's registers are in their ranges (R107, R112). -/
def CpRegistersOk (s : State) : Prop := s.cp.count ≤ 4 ∧ ∀ r, RingOk s r

/-- Every DELAY of a profile entry is in range (R74). -/
def ProfilesOk (s : State) : Prop := ∀ p : ProfileId, ∀ l : Fin 16, s.profiles[p].entries[l].delay.toNat ≤ 4095

/-- Every configuration is in its ranges (R48). -/
def ConfigsOk (s : State) : Prop := ∀ g : GroupId, FieldsInRange g s.configs[g]

theorem registersOk_iff (s : State) :
    RegistersOk s ↔ ClockInRange s ∧ 1 ≤ s.intMod.threshold.toNat ∧ CpRegistersOk s ∧ CompBaseOk s ∧ ProfilesOk s ∧ ConfigsOk s := by
  have rings : (∀ r, RingOk s r) ↔ RingOk s .priority ∧ RingOk s .normal :=
    ⟨fun h => ⟨h _, h _⟩, fun h r => by cases r; exacts [h.1, h.2]⟩
  unfold RegistersOk ClockInRange CpRegistersOk
  rw [rings]
  unfold RingOk
  exact ⟨fun ⟨a, b, c, d, e, f, g, h, i, j, k, l⟩ => ⟨⟨a, b, c⟩, d, ⟨e, ⟨f, i⟩, g, j⟩, h, k, l⟩,
    fun ⟨⟨a, b, c⟩, d, ⟨e, ⟨f, i⟩, g, j⟩, h, k, l⟩ => ⟨a, b, c, d, e, f, g, h, i, j, k, l⟩⟩

theorem ringRegs_withRing_self (r : SubRing) (f : RingRegs → RingRegs) (cp : CommandProcessor) :
    ringRegs (withRing r f cp) r = f (ringRegs cp r) := by cases r <;> rfl

theorem ringRegs_withRing_other {r q : SubRing} (f : RingRegs → RingRegs) (cp : CommandProcessor) (h : q ≠ r) :
    ringRegs (withRing r f cp) q = ringRegs cp q := by
  cases r <;> cases q <;> first | rfl | exact absurd rfl h

/-- The rings stay in their ranges where they stay as they are and no further command of a ring without entries begins. -/
theorem CpRegistersOk.of_rings {s t : State} (h : CpRegistersOk s) (count : t.cp.count ≤ 4)
    (rings : ∀ r, ringRegs t.cp r = ringRegs s.cp r) (busy : ∀ r, InProgress t r → InProgress s r ∨ (ringRegs s.cp r).size ≠ 0) :
    CpRegistersOk t := by
  refine ⟨count, fun r => ?_⟩
  obtain ⟨base, below, empty⟩ := h.2 r
  unfold RingOk ConsumerOk
  rw [rings r]
  refine ⟨base, below, fun none => ⟨(empty none).1, fun b => ?_⟩⟩
  rcases busy r b with b | size
  · exact (empty none).2 b
  · exact size none

theorem CpRegistersOk.size_ne_zero {s : State} {r : SubRing} (h : CpRegistersOk s) (busy : InProgress s r) :
    (ringRegs s.cp r).size ≠ 0 := fun none => ((h.2 r).2.2 none).2 busy

theorem inProgress_of_state {s t : State} {r : SubRing} (h : t.cp.state = s.cp.state) (busy : InProgress t r) : InProgress s r := by
  unfold InProgress at *
  rwa [h] at busy

theorem not_inProgress {s : State} {r : SubRing} (record : ∀ r e, s.cp.state ≠ .record r e)
    (auxiliary : ∀ r e a, s.cp.state ≠ .auxiliary r e a) : ¬ InProgress s r := by
  rintro (⟨e, h⟩ | ⟨e, a, h⟩)
  · exact record r e h
  · exact auxiliary r e a h

theorem Aside.ringRegs {s u : State} (h : Aside s u) (r : SubRing) : ringRegs u.cp r = Machine.ringRegs s.cp r := by
  cases r
  · exact h.priority
  · exact h.normal

theorem Aside.cpRegistersOk {s u : State} (h : Aside s u) (k : CpRegistersOk s) : CpRegistersOk u :=
  k.of_rings (h.count ▸ k.1) h.ringRegs fun _ busy => .inl (inProgress_of_state h.cpState busy)

/-- A command that ends moves CONSUMER within its ring and the count within its bound (R112, R116). -/
theorem consumed_cpRegistersOk {s t : State} {r : SubRing} (h : CpRegistersOk s) (busy : InProgress s r)
    (rings : ∀ q, ringRegs t.cp q = ringRegs (consumed r s.cp) q) (count : t.cp.count = (consumed r s.cp).count)
    (idle : ∀ q, ¬ InProgress t q) : CpRegistersOk t := by
  have size := h.size_ne_zero busy
  refine ⟨?_, fun q => ?_⟩
  · rw [count]
    cases r
    · exact min_le_left _ _
    · exact Nat.zero_le _
  · obtain ⟨base, below, empty⟩ := h.2 q
    unfold RingOk ConsumerOk
    rw [rings q]
    by_cases e : q = r
    · subst e
      have self : ringRegs (consumed q s.cp) q = passRecord (ringRegs s.cp q) := ringRegs_withRing_self q passRecord s.cp
      rw [self]
      refine ⟨base, fun _ => ?_, fun none => absurd none size⟩
      have positive : 0 < (ringRegs s.cp q).size.toNat := Nat.pos_of_ne_zero fun z => size (BitVec.eq_of_toNat_eq z)
      have small := (ringRegs s.cp q).size.isLt
      have next := Nat.mod_lt ((ringRegs s.cp q).consumer.toNat + 1) positive
      simp only [passRecord, BitVec.toNat_ofNat]
      exact (Nat.mod_le _ _).trans_lt next
    · have other : ringRegs (consumed r s.cp) q = ringRegs s.cp q := ringRegs_withRing_other passRecord s.cp e
      rw [other]
      exact ⟨base, below, fun none => ⟨(empty none).1, idle q⟩⟩

theorem takeDecision_cpRegistersOk {s : State} (h : CpRegistersOk s) : CpRegistersOk (takeDecision s) := by
  rcases takeDecision_cases s with same | ⟨-, ⟨u, quiet, stopped⟩ | ⟨r, size, reading⟩⟩
  · rwa [same]
  · rw [stopped]
    refine (quiet.aside.cpRegistersOk h).of_rings (quiet.aside.cpRegistersOk h).1 (fun r => by cases r <;> rfl) fun r busy => ?_
    rcases busy with ⟨e, x⟩ | ⟨e, a, x⟩ <;> cases x
  · rw [reading]
    refine h.of_rings h.1 (fun q => by cases q <;> rfl) fun q busy => .inr ?_
    rcases busy with ⟨e, x⟩ | ⟨e, a, x⟩ <;> cases x
    exact size

/-- A change of the Command Processor's state to one that is in no command. -/
theorem CpRegistersOk.of_idle {s t : State} (h : CpRegistersOk s) (count : t.cp.count = s.cp.count)
    (rings : ∀ r, ringRegs t.cp r = ringRegs s.cp r) (idle : ∀ q, ¬ InProgress t q) : CpRegistersOk t :=
  h.of_rings (count ▸ h.1) rings fun r busy => absurd busy (idle r)

theorem not_inProgress_of {s : State} {st : CpState} (h : s.cp.state = st) (k : st = .stopped ∨ st = .reserving ∨ st = .looking)
    (q : SubRing) : ¬ InProgress s q := by
  subst h
  refine not_inProgress (fun r e x => ?_) fun r e a x => ?_ <;> rw [x] at k <;> simp at k

theorem writeRun_cpRegistersOk (v : Bool) {s : State} (h : CpRegistersOk s) : CpRegistersOk (writeRun v s) := by
  have leaving : CpRegistersOk (leaveStopped { s with run := true }) := by
    unfold leaveStopped
    split
    · split
      · refine takeDecision_cpRegistersOk (h.of_idle rfl (fun r => by cases r <;> rfl) ?_)
        exact not_inProgress_of rfl (.inr (.inr rfl))
      · refine h.of_idle rfl (fun r => by cases r <;> rfl) ?_
        exact not_inProgress_of rfl (.inr (.inl rfl))
    · exact h
  have clearing : CpRegistersOk (clearRun s) := by
    unfold clearRun
    extract_lets t
    split
    · refine h.of_idle rfl (fun r => by cases r <;> rfl) ?_
      exact not_inProgress_of rfl (.inl rfl)
    · exact h
  unfold writeRun
  split
  · exact h
  · split
    · split
      · exact h
      · unfold startRun
        split
        · exact (handFault_quiet _ _ _ s).aside.cpRegistersOk h
        · exact leaving
    · exact clearing

theorem modRing_state (r : SubRing) (f : RingRegs → RingRegs) (s : State) : (modRing r f s).cp.state = s.cp.state := by
  cases r <;> rfl

theorem modRing_count (r : SubRing) (f : RingRegs → RingRegs) (s : State) : (modRing r f s).cp.count = s.cp.count := by
  cases r <;> rfl

/-- A write to one ring's registers that leaves them in their ranges. -/
theorem modRing_cpRegistersOk {s : State} (r : SubRing) {f : RingRegs → RingRegs} (h : CpRegistersOk s)
    (base : (f (ringRegs s.cp r)).base.toNat % 64 = 0) (consumer : ConsumerOk s r (f (ringRegs s.cp r))) :
    CpRegistersOk (modRing r f s) := by
  refine ⟨(modRing_count r f s).trans_le h.1, fun q => ?_⟩
  have busy : InProgress (modRing r f s) q → InProgress s q := inProgress_of_state (modRing_state r f s)
  unfold RingOk ConsumerOk
  by_cases e : q = r
  · subst e
    have self : ringRegs (modRing q f s).cp q = f (ringRegs s.cp q) := ringRegs_withRing_self q f s.cp
    rw [self]
    exact ⟨base, consumer.1, fun none => ⟨(consumer.2 none).1, fun b => (consumer.2 none).2 (busy b)⟩⟩
  · have other : ringRegs (modRing r f s).cp q = ringRegs s.cp q := ringRegs_withRing_other f s.cp e
    obtain ⟨b, below, empty⟩ := h.2 q
    rw [other]
    exact ⟨b, below, fun none => ⟨(empty none).1, fun b => (empty none).2 (busy b)⟩⟩

theorem not_inProgress_of_ringsWritable {s : State} (h : ringsWritable s = true) (r : SubRing) : ¬ InProgress s r := by
  unfold ringsWritable commandInProgress at h
  refine not_inProgress (fun r e x => ?_) fun r e a x => ?_ <;> rw [x] at h <;> simp at h

theorem engineResetComplete_cp (s : State) : (takeEngineReset s).cp = engineResetCp s.cp (commandInProgress s) := by
  unfold takeEngineReset
  split <;> rfl

theorem Effect.cpRegistersOk {c : Instr} {s t : State} (h : CpRegistersOk s) (k : Effect c s t) : CpRegistersOk t := by
  cases k with
  | quiet q => exact q.aside.cpRegistersOk h
  | @answered r id status value u busy prepared =>
    have aside := prepared.aside
    refine consumed_cpRegistersOk (aside.cpRegistersOk h) (inProgress_of_state aside.cpState.symm busy)
      (fun q => by cases q <;> rfl) rfl (not_inProgress_of (respond_cpState r id status value u) ?_)
    split
    · exact .inr (.inl rfl)
    · exact .inl rfl
  | @parked r g id busy room =>
    cases run : s.run with
    | true =>
      rw [endParked_running (s := parkWaiter g id s) run]
      refine takeDecision_cpRegistersOk (consumed_cpRegistersOk h busy (fun q => by cases q <;> rfl) rfl ?_)
      exact not_inProgress_of rfl (.inr (.inr rfl))
    | false =>
      rw [endParked_stopped (s := parkWaiter g id s) run]
      refine consumed_cpRegistersOk h busy (fun q => by cases q <;> rfl) rfl ?_
      exact not_inProgress_of rfl (.inl rfl)
  | @reading r address a busy fits =>
    refine h.of_rings h.1 (fun q => by cases q <;> rfl) fun q b => .inr ?_
    rcases b with ⟨e, x⟩ | ⟨e, a, x⟩ <;> cases x
    exact h.size_ne_zero busy
  | decision q => exact takeDecision_cpRegistersOk (q.aside.cpRegistersOk h)
  | @reservation u q =>
    have ok := q.aside.cpRegistersOk h
    unfold takeReservation
    split
    · refine takeDecision_cpRegistersOk (ok.of_idle rfl (fun r => by cases r <;> rfl) ?_)
      exact not_inProgress_of rfl (.inr (.inr rfl))
    · exact ok
  | stops q =>
    refine (q.aside.cpRegistersOk h).of_idle rfl (fun r => by cases r <;> rfl) ?_
    exact not_inProgress_of rfl (.inl rfl)
  | run v => exact writeRun_cpRegistersOk v h
  | divider => exact h
  | ringBase r half v =>
    refine modRing_cpRegistersOk r h ?_ (h.2 r).2
    rw [down64_toNat, Nat.mul_mod_left]
  | ringSize open_ r size =>
    refine modRing_cpRegistersOk r h (h.2 r).1 ⟨fun some => ?_, fun _ => ⟨rfl, not_inProgress_of_ringsWritable open_ r⟩⟩
    exact Nat.pos_of_ne_zero fun z => some (BitVec.eq_of_toNat_eq z)
  | ringProducer r v => exact takeDecision_cpRegistersOk (modRing_cpRegistersOk r h (h.2 r).1 (h.2 r).2)
  | intMod => exact (evalInterrupt_quiet _).aside.cpRegistersOk (s := { s with intMod := _ }) h
  | engineReset =>
    have cp := engineResetComplete_cp s
    refine ⟨by rw [cp]; exact Nat.zero_le _, fun r => ?_⟩
    obtain ⟨base, -, -⟩ := h.2 r
    have idle : ¬ InProgress (takeEngineReset s) r :=
      not_inProgress_of (congrArg CommandProcessor.state cp) (.inl rfl) r
    unfold RingOk ConsumerOk
    rw [cp]
    cases r <;> exact ⟨base, fun some => Nat.pos_of_ne_zero fun z => some (BitVec.eq_of_toNat_eq z), fun _ => ⟨rfl, idle⟩⟩
  | deviceReset command reset =>
    cases reset
    refine ⟨Nat.zero_le _, fun r => ?_⟩
    have idle : ¬ InProgress State.reset r := not_inProgress_of rfl (.inl rfl) r
    cases r <;> exact ⟨rfl, fun some => absurd rfl some, fun _ => ⟨rfl, idle⟩⟩

/-! ## Clock and THRESHOLD (R47, R157, R163) -/

/-- The clock's ranges, and THRESHOLD at least 1. -/
def ClockAndThresholdOk (s : State) : Prop := ClockInRange s ∧ 1 ≤ s.intMod.threshold.toNat

theorem CpFrame.clockAndThresholdOk {s t : State} (h : CpFrame s t) (k : ClockAndThresholdOk s) : ClockAndThresholdOk t := by
  obtain ⟨-, -, -, intMod, clock, divider, held, -, -⟩ := h.fields
  unfold ClockAndThresholdOk ClockInRange
  rw [intMod, clock, divider, held]
  exact k

theorem Aside.clockAndThresholdOk {s u : State} (h : Aside s u) (k : ClockAndThresholdOk s) : ClockAndThresholdOk u :=
  ⟨h.clock k.1, by rw [h.intMod]; exact k.2⟩

theorem heldDivider_range (v : BitVec 5) : 1 ≤ (heldDivider v).toNat ∧ (heldDivider v).toNat ≤ 16 := by
  unfold heldDivider
  split
  · bv_omega
  · split <;> bv_omega

theorem threshold_stored (threshold : Byte) : 1 ≤ (if threshold = 0 then 1 else threshold : Byte).toNat := by
  split <;> bv_omega

theorem emptied_quiet_clock (s : State) (k : ClockInRange s) : ClockInRange (takeEngineReset s) := by
  unfold takeEngineReset
  split
  · exact k
  · exact (endResetting_quiet (emptied s)).clock k

theorem Effect.clockAndThresholdOk {c : Instr} {s t : State} (h : ClockAndThresholdOk s) (k : Effect c s t) :
    ClockAndThresholdOk t := by
  cases k with
  | quiet q => exact q.aside.clockAndThresholdOk h
  | answered busy prepared => exact prepared.aside.clockAndThresholdOk h
  | parked busy room => exact (endParked_cpFrame _ _).clockAndThresholdOk h
  | reading | ringBase | ringSize => exact h
  | decision q => exact (takeDecision_cpFrame _).clockAndThresholdOk (q.aside.clockAndThresholdOk h)
  | reservation q => exact (takeReservation_cpFrame _).clockAndThresholdOk (q.aside.clockAndThresholdOk h)
  | stops q => exact q.aside.clockAndThresholdOk h
  | run v => exact (writeRun_cpFrame v s).clockAndThresholdOk h
  | divider v => exact ⟨⟨h.1.1, heldDivider_range v, h.1.2.2⟩, h.2⟩
  | ringProducer r v => exact (takeDecision_cpFrame _).clockAndThresholdOk h
  | intMod threshold age =>
    exact (evalInterrupt_quiet _).aside.clockAndThresholdOk (s := { s with intMod := _ }) ⟨h.1, threshold_stored threshold⟩
  | engineReset => exact ⟨emptied_quiet_clock s h.1, by rw [takeEngineReset_intMod]; exact h.2⟩
  | deviceReset command reset =>
    cases reset
    exact ⟨⟨h.1.1, ⟨le_rfl, show (1 : BitVec 5).toNat ≤ 16 from Nat.le_of_ble_eq_true rfl⟩, h.1.2.2⟩, le_rfl⟩

/-! ## Profiles, lanes and configurations (R48, R73 to R75) -/

/-- The lane table and the profiles after a command: as they were, those a table read has brought, or those of a device reset. -/
theorem Effect.lanes_profiles {c : Instr} {s t : State} (k : Effect c s t) :
    t.lanes = s.lanes ∧ t.profiles = s.profiles ∨
      (∃ data, c = .auxiliaryReadData data ∧
        (t.profiles = s.profiles ∨ ∃ p entries, profileTable data = some entries ∧ t.profiles = (publish p entries s).profiles)) ∨
      c = .deviceReset ∧ t.profiles = State.reset.profiles := by
  have kept {u v : State} (h : CpFrame u v) (k : u.lanes = s.lanes ∧ u.profiles = s.profiles) :
      v.lanes = s.lanes ∧ v.profiles = s.profiles := by
    obtain ⟨-, lanes, profiles, -⟩ := h.fields
    exact ⟨lanes.trans k.1, profiles.trans k.2⟩
  cases k with
  | quiet q | stops q => exact .inl ⟨q.lanes, q.profiles⟩
  | answered busy prepared =>
    cases prepared with
    | quiet q => exact .inl ⟨q.lanes, q.profiles⟩
    | config command ok => exact .inl ⟨rfl, rfl⟩
    | lanes command => exact .inr (.inl ⟨_, command, .inl rfl⟩)
    | profile command inRange => exact .inr (.inl ⟨_, command, .inr ⟨_, _, inRange, rfl⟩⟩)
    | @job x tag p extents =>
      have e := createJob_rest x tag p extents s
      have lanes := congrArg State.lanes e
      have profiles := congrArg State.profiles e
      exact .inl ⟨lanes, profiles⟩
  | parked busy room => exact .inl (kept (endParked_cpFrame _ _) ⟨rfl, rfl⟩)
  | decision q => exact .inl (kept (takeDecision_cpFrame _) ⟨q.lanes, q.profiles⟩)
  | reservation q => exact .inl (kept (takeReservation_cpFrame _) ⟨q.lanes, q.profiles⟩)
  | run v => exact .inl (kept (writeRun_cpFrame v s) ⟨rfl, rfl⟩)
  | reading | divider | ringBase | ringSize => exact .inl ⟨rfl, rfl⟩
  | ringProducer r v => exact .inl (kept (takeDecision_cpFrame _) ⟨rfl, rfl⟩)
  | intMod threshold age =>
    have q := evalInterrupt_quiet { s with intMod := { threshold := if threshold = 0 then 1 else threshold, age := age } }
    exact .inl ⟨q.lanes, q.profiles⟩
  | engineReset =>
    left
    unfold takeEngineReset
    split <;> exact ⟨rfl, rfl⟩
  | deviceReset command reset =>
    cases reset
    exact .inr (.inr ⟨command, rfl⟩)

/-- A profile table that is taken has every DELAY in range, and its entries are those of the table (R75). -/
theorem profileTable_some {table : List Byte} {entries : Vector ProfileEntry 16} (h : profileTable table = some entries) :
    entries = Vector.ofFn (fun l : Fin 16 => profileEntryAt table l.val) ∧
      ∀ l, l < 16 → (profileEntryAt table l).delay.toNat ≤ 4095 := by
  unfold profileTable at h
  split at h
  · rename_i inRange
    simp only [List.all_eq_true, List.mem_range, decide_eq_true_eq] at inRange
    exact ⟨(Option.some.inj h).symm, inRange⟩
  · cases h

theorem publish_profiles (p q : ProfileId) (entries : Vector ProfileEntry 16) (s : State) :
    (publish p entries s).profiles[q]
      = if q = p then { entries := entries, generation := s.profiles[p].generation + 1 } else s.profiles[q] :=
  vmod_getElem s.profiles p q fun x => { entries := entries, generation := x.generation + 1 }

theorem Effect.profilesOk {c : Instr} {s t : State} (h : ProfilesOk s) (k : Effect c s t) : ProfilesOk t := by
  have of_eq {u : State} (e : t.profiles = u.profiles) (ok : ProfilesOk u) : ProfilesOk t := by
    unfold ProfilesOk
    rw [e]
    exact ok
  rcases k.lanes_profiles with ⟨-, same⟩ | ⟨data, -, same | ⟨p, entries, inRange, same⟩⟩ | ⟨-, same⟩
  · exact of_eq same h
  · exact of_eq same h
  · obtain ⟨table, delays⟩ := profileTable_some inRange
    have inTable (l : Fin 16) : entries[l].delay.toNat ≤ 4095 := by
      have entry := delays l.val l.isLt
      simpa [table] using entry
    refine of_eq same fun q l => ?_
    rw [publish_profiles]
    split
    · exact inTable l
    · exact h q l
  · refine of_eq same fun q l => ?_
    simp [State.reset, Profile.reset]

theorem Effect.configsOk {c : Instr} {s t : State} (h : ConfigsOk s) (k : Effect c s t) : ConfigsOk t := by
  intro x
  rcases k.configs with same | ⟨-, -, f, g, -, ok, same⟩ | ⟨-, same⟩
  · rw [same]; exact h x
  · rw [same, applyConfigGroup_configs_get]
    split
    · rename_i e; rw [e]; exact (configGroupStatus_ok ok).1
    · exact h x
  · rw [same, reset_configs_get]
    exact ⟨Nat.zero_le _, fun on => absurd rfl on⟩

/-- Settles O58, register by register: each has its own law, kept by every effect, and the completion BASE by every command. -/
theorem stepsKeepRegistersInRange : Obligations.StepsKeepRegistersInRange := by
  intro s t h k
  rw [registersOk_iff] at *
  obtain ⟨clock, threshold, cp, base, profiles, configs⟩ := h
  have ct : ClockAndThresholdOk t := step_keeps (fun _ _ h => h) (fun _ _ _ h k => k.clockAndThresholdOk h) ⟨clock, threshold⟩ k
  exact ⟨ct.1, ct.2, step_keeps (fun _ _ h => h) (fun _ _ _ h k => k.cpRegistersOk h) cp k,
    step_keeps_of_exec (fun _ _ h => h) (fun _ h => h) (fun _ _ _ => exec_compBaseOk) base k,
    step_keeps (fun _ _ h => h) (fun _ _ _ h k => k.profilesOk h) profiles k,
    step_keeps (fun _ _ h => h) (fun _ _ _ h k => k.configsOk h) configs k⟩

/-- Settles O59, from what a command can do to the tables. -/
theorem tablesChangeOnlyByTheirCommands : Obligations.TablesChangeOnlyByTheirCommands := by
  intro c s t h
  have k := exec_effect h
  refine ⟨fun noTable noReset => ?_, fun noConfig noReset => ?_⟩
  · rcases k.lanes_profiles with same | ⟨data, command, -⟩ | ⟨reset, -⟩
    · exact same
    · exact absurd command (noTable data)
    · exact absurd reset noReset
  · rcases k.configs with same | ⟨id, target, f, -, command, -⟩ | ⟨reset, -⟩
    · exact same
    · exact absurd command (noConfig id target f)
    · exact absurd reset noReset

/-! ## The laws at reset (R51, R110, R147, R152, R169) -/

theorem reset_clockInRange : ClockInRange State.reset :=
  ⟨⟨le_rfl, Nat.le_of_ble_eq_true rfl⟩, ⟨le_rfl, Nat.le_of_ble_eq_true rfl⟩, Nat.le_of_ble_eq_true rfl⟩

/-- Settles O52. -/
theorem lawsHoldAtReset : Obligations.LawsHoldAtReset := by
  refine ⟨⟨Nat.zero_le _, rfl⟩, spansOk_reset, leadersOk_reset, ?_, completionOk_of_empty rfl rfl rfl, ?_⟩
  · refine ⟨fun g => ?_, fun g => ?_, trivial⟩ <;>
      simp [State.reset, GroupState.reset, Config.listCapacity, Config.waiterCapacity]
  · have idle (r : SubRing) : ¬ InProgress State.reset r := not_inProgress_of rfl (.inl rfl) r
    refine (registersOk_iff _).mpr ⟨reset_clockInRange, le_rfl, ⟨Nat.zero_le _, fun r => ?_⟩, rfl, fun p l => ?_, fun g => ?_⟩
    · cases r <;> exact ⟨rfl, fun some => absurd rfl some, fun _ => ⟨rfl, idle _⟩⟩
    · simp [State.reset, Profile.reset]
    · rw [reset_configs_get]
      exact ⟨Nat.zero_le _, fun on => absurd rfl on⟩

end Sys2Proof.Machine
end

section
/-! SUPPORT. Proofs/Registers.lean: steps, the host's register writes, faults and the age expiry (O1, O3, O6, O7, O11 to O13). -/

namespace Sys2Proof.Machine

open Sys2Proof.Claims

/-! ## Steps -/

/-- Settles O1: a period's carry into the next tick is the quotient of phase + 1 by the divider, which is 0 or 1. -/
theorem stepRunsFrontCommandOrIdles : Obligations.StepRunsFrontCommandOrIdles := by
  refine ⟨fun c rest s h => by simp only [step, h], fun s h phase => ?_⟩
  refine ⟨advance 1 s, by simp only [step, h], rfl, rfl, rfl, ?_⟩
  split
  · rename_i last
    refine ⟨?_, ?_⟩
    · show s.clock.tick + (s.clock.phase + 1) / s.divider.toNat = _
      rw [last, Nat.div_self (by omega)]
    · show (s.clock.phase + 1) % s.divider.toNat = 0
      rw [last, Nat.mod_self]
  · have within : s.clock.phase + 1 < s.divider.toNat := by omega
    refine ⟨?_, Nat.mod_eq_of_lt within⟩
    show s.clock.tick + (s.clock.phase + 1) / s.divider.toNat = _
    rw [Nat.div_eq_of_lt within, Nat.add_zero]

/-! ## Host writes during a device reset (R169) -/

theorem hostWrite_lost {s : State} (f : State → State) (h : s.inReset.isSome = true) : hostWrite f s = s := if_pos h

/-- Settles O3: every host write but REGISTER_WRITE, which is ignored in any case, is a `hostWrite`. -/
theorem hostWritesLostInDeviceReset : Obligations.HostWritesLostInDeviceReset := by
  intro c s host reset
  have lost (f : State → State) : (Host.Outcome.next (hostWrite f s) : Result) = .next s := by rw [hostWrite_lost f reset]
  cases c
  case run | engineReset | fetchLimit | tickDivider | faultClear | submissionBase | submissionSize | producer | completionBase
    | completionSize | consumer | intMod => exact lost _
  case registerWrite => rfl
  all_goals cases host

/-! ## FETCH_LIMIT and TICK_DIVIDER (R94, R162, R163) -/

/-- Settles O7. -/
theorem fetchLimitAndDividerWritesAreHeld : Obligations.FetchLimitAndDividerWritesAreHeld :=
  ⟨fun _ _ _ ready => ⟨congrArg _ (hostWrite_open _ ready), congrArg _ (hostWrite_open _ ready)⟩, fun _ => rfl⟩

/-! ## Faults (R165) -/

theorem joinKinds_ne_noKinds {k : FaultKinds} (a : FaultKinds) (h : k ≠ noKinds) : joinKinds a k ≠ noKinds := by
  rw [← faultPending_iff] at *
  simp only [faultPending, joinKinds, Bool.or_eq_true] at *
  tauto

theorem faultAfter_kinds_ne {k : FaultKinds} (f : FaultReg) (ring : FaultRing) (index : Short) (h : k ≠ noKinds) :
    (faultAfter f k ring index).kinds ≠ noKinds := by
  unfold faultAfter
  split
  · exact h
  · exact joinKinds_ne_noKinds _ h

/-- After an evaluation the condition is true if a fault is pending. -/
theorem evalInterrupt_of_fault {s : State} (h : s.fault.kinds ≠ noKinds) : (evalInterrupt s).condition = true := by
  rw [evalInterrupt_eq]
  exact (conditionNow_iff s).mpr (.inr (.inr h))

/-- A fault of a new kind: what FAULT is and that the condition was evaluated. -/
theorem handFault_evaluated {kind : FaultKinds} (ring : FaultRing) (index : Short) {s : State}
    (fresh : joinKinds s.fault.kinds kind ≠ s.fault.kinds) :
    (handFault kind ring index s).fault = faultAfter s.fault kind ring index ∧ Evaluated s (handFault kind ring index s) := by
  rw [handFault_new kind ring index s fresh]
  exact ⟨(evalInterrupt_fault _).trans (recordFault_eq_faultAfter s.fault kind ring index), evalInterrupt_evaluated rfl rfl⟩

/-- Settles O11. -/
theorem faultIsRecordedWithFirstRingAndIndex : Obligations.FaultIsRecordedWithFirstRingAndIndex := by
  intro s kind ring index some
  refine ⟨handFault_same kind ring index s, fun fresh => ?_⟩
  obtain ⟨fault, evaluated⟩ := handFault_evaluated ring index fresh
  refine ⟨fault, evaluated, ?_, handFault_rest kind ring index s⟩
  exact evaluated.1.mpr (.inr (.inr (by rw [fault]; exact faultAfter_kinds_ne _ _ _ some)))

/-! ## The age expiry (R158, R159) -/

/-- Only the clock of the second state is another's. -/
theorem eq_of_clock {s u : State} (h : { u with clock := s.clock } = s) : u = { s with clock := u.clock } :=
  congrArg (fun x : State => { x with clock := u.clock }) h

/-- Settles O12: at the moment of the expiry the oldest entry has waited AGE µs. -/
theorem ageExpiryRaisesCondition : Obligations.AgeExpiryRaisesCondition := by
  intro s
  refine ⟨?_, fun w rest times age => ?_⟩
  · rintro (none | off)
    · simp only [exec, execAgeExpiry, none]
    · simp only [exec, execAgeExpiry, off, if_true]
      split <;> rfl
  · obtain ⟨same, now, mhz⟩ := toMoment_spec (w + periods s s.intMod.age.toNat) s
    have taken : exec .ageExpiry s = .next (evalInterrupt (toMoment (w + periods s s.intMod.age.toNat) s)) := by
      simp only [exec, execAgeExpiry, times, if_neg age]
    generalize toMoment (w + periods s s.intMod.age.toNat) s = u at *
    have frame := eq_of_clock same
    generalize u.clock = k at *
    subst frame
    have evaluated : Evaluated s (evalInterrupt { s with clock := k }) := evalInterrupt_evaluated rfl rfl
    have waited : w + s.intMod.age.toNat * k.mhz ≤ k.now := by
      rw [mhz, now]; exact Nat.le_max_right _ _
    refine ⟨_, taken, evaluated.1.mpr (.inr (.inl ?_)), evaluated, ?_, ?_⟩ <;> rw [evalInterrupt_eq]
    · exact ⟨age, w, by simp [times], waited⟩
    · exact now

/-! ## Ring registers (R108, R111, R147) -/

theorem ringsWritable_iff (s : State) : ringsWritable s = true ↔ RingsOpen s := by
  unfold ringsWritable commandInProgress RingsOpen
  cases s.run <;> cases s.cp.state <;> simp

theorem modRing_eq_withRegs (r : SubRing) (f : RingRegs → RingRegs) (s : State) :
    modRing r f s = withRegs r (f (regsOf r s)) s := by
  cases r <;> rfl

/-- A host write that is taken only while BASE and SIZE can be written. -/
theorem ringWrite_closed {s : State} (f : State → State) (ready : s.inReset = none) (closed : ¬ RingsOpen s) :
    (Host.Outcome.next (hostWrite (fun t => if ringsWritable t then f t else t) s) : Result) = .next s := by
  rw [hostWrite_open _ ready, if_neg (by rwa [ringsWritable_iff])]

theorem ringWrite_open {s : State} (f : State → State) (ready : s.inReset = none) (open_ : RingsOpen s) :
    (Host.Outcome.next (hostWrite (fun t => if ringsWritable t then f t else t) s) : Result) = .next (f s) := by
  rw [hostWrite_open _ ready, if_pos ((ringsWritable_iff s).mpr open_)]

/-- A write of PRODUCER is stored, and a take decision made. -/
theorem exec_producer {s : State} (ring : SubRing) (v : Short) (ready : s.inReset = none) :
    exec (.producer ring v) s = exec .takeDecision (withRegs ring { regsOf ring s with producer := v } s) := by
  show (Host.Outcome.next (hostWrite _ s) : Result) = _
  rw [hostWrite_open _ ready, modRing_eq_withRegs]
  rfl

theorem withRegs_cpState (ring : SubRing) (regs : RingRegs) (s : State) : (withRegs ring regs s).cp.state = s.cp.state := by
  cases ring <;> rfl

/-- Settles O13. -/
theorem ringRegisterWritesAreTakenWhileStopped : Obligations.RingRegisterWritesAreTakenWhileStopped := by
  intro s ready
  refine ⟨fun closed ring half v size => ?_, fun open_ => ⟨fun ring half v => ?_, fun ring size => ?_, fun half v => ?_, fun size => ?_⟩,
    fun ring v => ⟨fun other => ?_, fun _ => exec_producer ring v ready⟩⟩
  · exact ⟨ringWrite_closed _ ready closed, ringWrite_closed _ ready closed, ringWrite_closed _ ready closed,
      ringWrite_closed _ ready closed⟩
  · refine ⟨down64 (baseWord half v (regsOf ring s).base), ?_, ?_⟩
    · rw [down64_toNat]; cases half <;> rfl
    · exact (ringWrite_open _ ready open_).trans (by rw [modRing_eq_withRegs])
  · exact (ringWrite_open _ ready open_).trans (by rw [modRing_eq_withRegs])
  · refine ⟨down32 (baseWord half v s.comp.base), ?_, ringWrite_open _ ready open_⟩
    rw [down32_toNat]; cases half <;> rfl
  · refine ⟨_, ringWrite_open _ ready open_, evalInterrupt_evaluated rfl rfl, evalInterrupt_comp _, ?_⟩
    rw [evalInterrupt_eq]
  · rw [exec_producer ring v ready]
    exact congrArg _ (takeDecision_other (by rwa [withRegs_cpState]))

/-! ## RUN (R110, R118, R168) -/

theorem exec_run {s : State} (v : Bool) (ready : s.inReset = none) : exec (.run v) s = .next (writeRun v s) :=
  congrArg _ (hostWrite_open _ ready)

theorem joinKinds_config_of_set {k : FaultKinds} (h : k.config = true) : joinKinds k kindConfig = k := by
  simp [joinKinds, kindConfig, noKinds, ← h]

theorem joinKinds_config_of_clear {k : FaultKinds} (h : k.config = false) : joinKinds k kindConfig ≠ k := by
  intro e
  have e := congrArg FaultKinds.config e
  simp [joinKinds, kindConfig, h] at e

/-- A write of 1 to RUN while RUN is 0, outside RESETTING, with a ring of an invalid SIZE. -/
theorem exec_run_fault {s : State} {ring : FaultRing} (ready : s.inReset = none) (idle : s.resetting = false) (stopped : s.run = false)
    (h : invalidRing s = some ring) : exec (.run true) s = .next (handFault kindConfig ring 0 s) := by
  simp [exec_run true ready, writeRun, idle, stopped, startRun, h]

/-- A write of 1 to RUN while RUN is 0, outside RESETTING, with three valid SIZEs. -/
theorem exec_run_start {s : State} (ready : s.inReset = none) (idle : s.resetting = false) (stopped : s.run = false)
    (h : invalidRing s = none) : exec (.run true) s = .next (leaveStopped { s with run := true }) := by
  simp [exec_run true ready, writeRun, idle, stopped, startRun, h]

theorem invalidRing_valid {s : State} (comp : Config.validCompletionSize s.comp.size = true)
    (priority : Config.validSubmissionSize s.cp.priority.size = true) (normal : Config.validSubmissionSize s.cp.normal.size = true) :
    invalidRing s = none := by
  simp [invalidRing, comp, priority, normal]

theorem invalidRing_some {s : State} (h : Config.validCompletionSize s.comp.size = false ∨
    Config.validSubmissionSize s.cp.priority.size = false ∨ Config.validSubmissionSize s.cp.normal.size = false) :
    ∃ ring, invalidRing s = some ring := by
  unfold invalidRing
  split_ifs <;> simp_all

theorem leaveStopped_inProgress {s : State} (h : ∃ r, InProgress s r) : leaveStopped s = s := by
  refine if_neg fun stopped => ?_
  obtain ⟨r, ⟨e, read⟩ | ⟨e, a, read⟩⟩ := h <;> rw [stopped] at read <;> cases read

/-- Settles O6. -/
theorem runWriteStartsAndStopsCommands : Obligations.RunWriteStartsAndStopsCommands := by
  intro s ready
  refine ⟨fun resetting v => by simp [exec_run v ready, writeRun, resetting], fun idle => ⟨fun running => ?_, ?_, fun stopped =>
    ⟨fun ring named clear => ?_, fun bad set => ?_, fun comp priority normal cp => ⟨fun free => ?_, fun reserved => ?_⟩,
      fun comp priority normal busy => ?_⟩⟩⟩
  · simp [exec_run true ready, writeRun, idle, running]
  · rw [exec_run false ready, writeRun, if_neg (by simp [idle]), if_neg (by simp), clearRun]
    split <;> rfl
  · have invalid : invalidRing s = some ring := by
      rcases named with ⟨comp, rfl⟩ | ⟨comp, ⟨priority, rfl⟩ | ⟨priority, normal, rfl⟩⟩ <;> simp_all [invalidRing]
    obtain ⟨fault, evaluated⟩ := handFault_evaluated (kind := kindConfig) ring 0 (joinKinds_config_of_clear clear)
    exact ⟨_, exec_run_fault ready idle stopped invalid, fault, evaluated, handFault_rest _ _ _ s⟩
  · obtain ⟨ring, invalid⟩ := invalidRing_some bad
    rw [exec_run_fault ready idle stopped invalid, handFault_same _ _ _ s (joinKinds_config_of_set set)]
  · rw [exec_run_start ready idle stopped (invalidRing_valid comp priority normal), leaveStopped, if_pos cp,
      if_neg (by simp [free])]
    rfl
  · rw [exec_run_start ready idle stopped (invalidRing_valid comp priority normal), leaveStopped, if_pos cp, if_pos reserved]
    rfl
  · exact (exec_run_start ready idle stopped (invalidRing_valid comp priority normal)).trans
      (congrArg _ (leaveStopped_inProgress (s := { s with run := true }) busy))

end Sys2Proof.Machine
end

section
/-! SUPPORT. Proofs/TwoResets.lean: device reset, engine reset and the end of RESETTING (O4, O8, O9). -/

namespace Sys2Proof.Machine

open Sys2Proof.Claims

/-! ## Device reset (R87, R169) -/

/-- The part while a device reset is taken. -/
def inDeviceReset (s : State) : State :=
  { State.reset with clock := s.clock, divider := s.divider, inReset := some s.clock.now, link := s.link, pending := s.pending }

/-- Completion acts no sooner than 10 µs after the fall of RESET_N, and the held divider takes effect. -/
theorem exec_deviceResetComplete {r : State} {fell : Nat} (h : r.inReset = some fell) :
    ∃ k, exec .deviceResetComplete r = .next { r with inReset := none, divider := r.dividerHeld, clock := k } ∧
      k.now = max r.clock.now (fell + 10 * r.clock.mhz) := by
  obtain ⟨same, now, -⟩ := toMoment_spec (fell + periods r Config.deviceResetMicros) r
  have taken : exec .deviceResetComplete r =
      .next (latchDivider { toMoment (fell + periods r Config.deviceResetMicros) r with inReset := none }) := by
    simp only [exec, execDeviceResetComplete, h]
  have frame := eq_of_clock same
  refine ⟨{ (toMoment (fell + periods r Config.deviceResetMicros) r).clock with phase := 0 }, ?_, now⟩
  generalize toMoment (fell + periods r Config.deviceResetMicros) r = u at *
  generalize u.clock = k at *
  rw [taken, frame]
  rfl

theorem reset_laneLevel (k : Clock) (d : BitVec 5) (l : List LinkMsg) (q : List Instr) (lane : LaneId) :
    laneLevel { State.reset with clock := k, divider := d, link := l, pending := q } lane = false := by
  simp [laneLevel, State.reset, LaneRecord.reset, pulseActive]

theorem reset_control (k : Clock) (d : BitVec 5) (l : List LinkMsg) (q : List Instr) :
    readWindow { State.reset with clock := k, divider := d, link := l, pending := q } 0x04 = some 0x00017D00 :=
  congrArg some (show BitVec.ofNat 32 (bit false + (125 : Byte).toNat * 2 ^ 8 + (1 : BitVec 5).toNat * 2 ^ 16) = 0x00017D00 from rfl)

theorem reset_status (k : Clock) (d : BitVec 5) (l : List LinkMsg) (q : List Instr) :
    readWindow { State.reset with clock := k, divider := d, link := l, pending := q } 0x08 = some 0 := by
  have none : liveContexts State.reset = 0 := by simp [liveContexts, State.reset]
  refine congrArg some ?_
  show BitVec.ofNat 32 (0 + 0 * 2 + 0 * 2 ^ 2 + 0 * 2 ^ 3 + liveContexts State.reset * 2 ^ 4 + 0 * 2 ^ 10 + 0 * 2 ^ 12 + 0 * 2 ^ 13
    + 0 * 2 ^ 14 + 0 * 2 ^ 15 + 0 * 2 ^ 16) = 0
  rw [none]
  rfl

theorem reset_intMod (k : Clock) (d : BitVec 5) (l : List LinkMsg) (q : List Instr) :
    readWindow { State.reset with clock := k, divider := d, link := l, pending := q } 0x0C = some 1 :=
  congrArg some (show (0 : Short) ++ (0 : Byte) ++ (1 : Byte) = (1 : Word) from rfl)

/-- Settles O4: both parts' fields are those of `State.reset` but for time, link and queue. -/
theorem deviceResetLeavesResetValues : Obligations.DeviceResetLeavesResetValues := by
  refine ⟨fun s => ?_, fun r fell falling => ?_⟩
  · obtain ⟨k, complete, now⟩ := exec_deviceResetComplete (r := inDeviceReset s) (fell := s.clock.now) rfl
    refine ⟨inDeviceReset s, _, rfl, complete, rfl, rfl, rfl, rfl, rfl, fun _ => rfl, fun _ => rfl, rfl, rfl, rfl, ?_, rfl,
      reset_laneLevel k 1 s.link s.pending, reset_control k 1 s.link s.pending, reset_status k 1 s.link s.pending,
      reset_intMod k 1 s.link s.pending, ?_⟩
    · rw [show ({ inDeviceReset s with inReset := none, divider := (inDeviceReset s).dividerHeld, clock := k } : State).clock.now
        = k.now from rfl, now]
      exact Nat.le_max_right _ _
    · simp only [List.forall_mem_cons]
      have zero : (0 : Short) ++ (0 : Short) = (0 : Word) := rfl
      have low : (0 : Addr).extractLsb' 0 32 = 0 := rfl
      have high : (0 : Addr).extractLsb' 32 32 = 0 := rfl
      have zero := congrArg some zero
      have low := congrArg some low
      have high := congrArg some high
      exact ⟨low, high, zero, zero, low, high, zero, zero, low, high, zero, zero, fun _ h => absurd h List.not_mem_nil⟩
  · obtain ⟨k, complete, now⟩ := exec_deviceResetComplete falling
    exact ⟨_, complete, rfl, rfl, now, rfl⟩

/-! ## Tracker entries (R93, R106) -/

theorem trackerBusy_iff (s : State) : trackerBusy s = true ↔ ∃ e : EntryId, s.tracker[e] ≠ none := by
  unfold trackerBusy
  rw [List.any_eq_true]
  constructor
  · rintro ⟨x, mem, busy⟩
    obtain ⟨i, h, rfl⟩ := List.mem_iff_getElem.mp mem
    exact ⟨⟨i, by simpa using h⟩, Option.isSome_iff_ne_none.mp (by simpa using busy)⟩
  · rintro ⟨e, busy⟩
    exact ⟨s.tracker[e], by simp, Option.isSome_iff_ne_none.mpr busy⟩

theorem setEntry_tracker (e d : EntryId) (r : Option LineRead) (s : State) :
    (setEntry e r s).tracker[d] = if d = e then r else s.tracker[d] := by
  simp only [setEntry, Fin.getElem_fin, Vector.getElem_set, eq_comm, Fin.ext_iff]

/-- With another entry busy an entry only frees. -/
theorem freeEntry_other {e d : EntryId} {s : State} (other : d ≠ e) (busy : s.tracker[d] ≠ none) :
    freeEntry e s = setEntry e none s := by
  have still : trackerBusy (setEntry e none s) = true :=
    (trackerBusy_iff _).mpr ⟨d, by rwa [setEntry_tracker, if_neg other]⟩
  simp [freeEntry, still]

/-- The last entry of a RESETTING period ends it. -/
theorem freeEntry_last {e : EntryId} {s : State} (resetting : s.resetting = true) (last : ∀ d : EntryId, d ≠ e → s.tracker[d] = none) :
    freeEntry e s = endResetting (setEntry e none s) := by
  have idle : trackerBusy (setEntry e none s) = false := by
    rw [← Bool.not_eq_true, trackerBusy_iff]
    rintro ⟨d, busy⟩
    rw [setEntry_tracker] at busy
    split at busy
    · exact busy rfl
    · exact busy (last d ‹_›)
  simp [freeEntry, idle, resetting]

/-! ## Engine reset (R167) -/

theorem takeEngineReset_busy {s : State} (h : ∃ e : EntryId, s.tracker[e] ≠ none) :
    takeEngineReset s = { emptied s with resetting := true } := if_pos ((trackerBusy_iff s).mpr h)

theorem takeEngineReset_idle {s : State} (h : ¬ ∃ e : EntryId, s.tracker[e] ≠ none) :
    takeEngineReset s = endResetting (emptied s) := if_neg (by rwa [trackerBusy_iff])

/-- What an engine reset does whether or not a tracker entry is busy. -/
theorem takeEngineReset_emptied (s : State) :
    { takeEngineReset s with
      resetting := s.resetting, divider := s.divider, clock := s.clock, groups := Vector.replicate 4 GroupState.reset } = emptied s := by
  unfold takeEngineReset
  split <;> rfl

/-- Settles O8. -/
theorem engineResetEmptiesThePart : Obligations.EngineResetEmptiesThePart := by
  intro s ready
  refine ⟨?_, fun resetting => ?_, fun idle => ⟨_, exec_engineReset_taken ready idle, ?_⟩⟩
  · exact congrArg _ (hostWrite_open _ ready)
  · refine (congrArg _ (hostWrite_open _ ready)).trans ?_
    rw [resetting]
    rfl
  · have field {α : Type} (f : State → α) (same : ∀ t : State, f { t with
        resetting := s.resetting, divider := s.divider, clock := s.clock, groups := Vector.replicate 4 GroupState.reset } = f t) :
        f (takeEngineReset s) = f (emptied s) := by rw [← takeEngineReset_emptied, same]
    have slots (i : SlotId) : (emptied s).slots[i] = { s.slots[i] with state := .free } := vmap_getElem _ _ _
    have tracker (e : EntryId) : (emptied s).tracker[e] = s.tracker[e].map fun r => { r with isVoid := true } := vmap_getElem _ _ _
    have resetting : (takeEngineReset s).resetting = true ↔ ∃ e : EntryId, s.tracker[e] ≠ none := by
      by_cases busy : ∃ e : EntryId, s.tracker[e] ≠ none
      · rw [takeEngineReset_busy busy]; simpa using busy
      · rw [takeEngineReset_idle busy]; simpa [endResetting, startClocks, latchDivider] using busy
    have groups (g : GroupId) : (takeEngineReset s).groups[g] = { GroupState.reset with
        clock := if ∃ e : EntryId, s.tracker[e] ≠ none then .stopped else initialClock s.configs[g] s.clock.tick } := by
      split
      · rename_i busy
        rw [takeEngineReset_busy busy]; simp [emptied, GroupState.reset]
      · rename_i none
        rw [takeEngineReset_idle none, endResetting, startClocks_get]; simp [latchDivider, emptied]
    have divider : (takeEngineReset s).divider = if ∃ e : EntryId, s.tracker[e] ≠ none then s.divider else s.dividerHeld := by
      split
      · rename_i busy
        rw [takeEngineReset_busy busy]; rfl
      · rename_i none
        rw [takeEngineReset_idle none]; rfl
    refine ⟨field State.run fun _ => rfl, resetting, field State.fault fun _ => rfl, field State.condition fun _ => rfl, fun c => ?_,
      fun g => ?_, field State.endQueue fun _ => rfl, field State.slotWait fun _ => rfl, field State.eligible fun _ => rfl,
      field State.holding fun _ => rfl, fun i => ?_, fun e => ?_, field State.lastServed fun _ => rfl, groups, divider, fun lane => ?_,
      field (fun t => t.cp.state) fun _ => rfl, field (fun t => t.cp.reserved) fun _ => rfl, field (fun t => t.cp.count) fun _ => rfl,
      field (fun t => t.cp.priority) fun _ => rfl, field (fun t => t.cp.normal) fun _ => rfl, takeEngineReset_comp s,
      field State.configs fun _ => rfl, field State.profiles fun _ => rfl, field State.lanes fun _ => rfl,
      field State.fetchLimit fun _ => rfl, field State.dividerHeld fun _ => rfl, takeEngineReset_intMod s,
      field State.link fun _ => rfl, field State.inReset fun _ => rfl⟩
    · rw [field State.jobs fun _ => rfl]; simp [emptied]
    · rw [field State.lists fun _ => rfl]; simp [emptied]
    · rw [field State.slots fun _ => rfl]; exact slots i
    · rw [field State.tracker fun _ => rfl]; exact tracker e
    · rw [field State.pulses fun _ => rfl]; simp [emptied]

/-! ## The end of RESETTING (R106, R168) -/

/-- An answer to a VOID entry within its expiry. -/
theorem exec_voidAnswer {c : Instr} {s : State} {e : EntryId} {read : LineRead} (busy : s.tracker[e] = some read)
    (void : read.isVoid = true) (intime : s.clock.now ≤ read.expiry)
    (h : c = .fetchErrorAnswer e ∨ ∃ data, c = .fetchDataAnswer e data) : exec c s = .next (freeEntry e s) := by
  rcases h with rfl | ⟨data, rfl⟩
  · simp only [exec, execFetchErrorAnswer, busy, intime, if_true, failRead, void]
  · simp only [exec, execFetchDataAnswer, busy, intime, if_true, takeData, void]

/-- The part when the expiry of a read comes: the clock at its moment, and one more late answer to come. -/
def expired (read : LineRead) (s : State) : State := { toMoment read.expiry s with lateReads := s.lateReads + 1 }

theorem exec_fetchExpiry {s : State} {e : EntryId} {read : LineRead} (busy : s.tracker[e] = some read) :
    exec (.fetchExpiry e) s = .next (failRead e read (expired read s)) := by
  simp only [exec, execFetchExpiry, busy, expired]

theorem exec_voidExpiry {s : State} {e : EntryId} {read : LineRead} (busy : s.tracker[e] = some read) (void : read.isVoid = true) :
    exec (.fetchExpiry e) s = .next (freeEntry e (expired read s)) := by
  simp only [exec_fetchExpiry busy, failRead, void, if_true]

/-- What the end of RESETTING leaves, in a state that differs from `s` in time and in the late answers still to come alone. -/
theorem freeEntry_last_spec {e : EntryId} {s : State} (k : Clock) (n : Nat) (resetting : s.resetting = true)
    (last : ∀ d : EntryId, d ≠ e → s.tracker[d] = none) :
    ∃ t, freeEntry e { s with clock := k, lateReads := n } = t ∧ t.resetting = false ∧ t.divider = s.dividerHeld ∧
      (∀ d : EntryId, t.tracker[d] = none) ∧
      (∀ g : GroupId, t.groups[g] = { s.groups[g] with clock := initialClock s.configs[g] t.clock.tick }) ∧
      { t with resetting := s.resetting, divider := s.divider, tracker := s.tracker, groups := s.groups, clock := s.clock,
               lateReads := s.lateReads } = s := by
  refine ⟨_, freeEntry_last (s := { s with clock := k, lateReads := n }) resetting last, rfl, rfl, fun d => ?_, fun g => ?_, rfl⟩
  · refine (setEntry_tracker e d none s).trans ?_
    split
    · rfl
    · exact last d ‹_›
  · rw [endResetting, startClocks_get]
    rfl

/-- Settles O9. -/
theorem resettingEndsWithLastVoidRead : Obligations.ResettingEndsWithLastVoidRead := by
  intro s e read resetting busy void
  have moment := toMoment_spec read.expiry s
  have frame : expired read s = { s with clock := (toMoment read.expiry s).clock, lateReads := s.lateReads + 1 } :=
    congrArg (fun x : State => { x with lateReads := s.lateReads + 1 }) (eq_of_clock moment.1)
  refine ⟨fun c t answer intime ⟨d, other, dBusy⟩ result => ?_, fun ⟨d, other, dBusy⟩ => ?_, fun c event intime last => ?_⟩
  · rw [exec_voidAnswer busy void intime answer, freeEntry_other other dBusy, result]
    rfl
  · refine ⟨_, moment, ?_⟩
    have dBusy' : (expired read s).tracker[d] ≠ none := by rw [frame]; exact dBusy
    have tracker : (expired read s).tracker = s.tracker := by rw [frame]
    rw [exec_voidExpiry busy void, freeEntry_other other dBusy', setEntry, tracker]
    rfl
  · by_cases expiry : c = .fetchExpiry e
    · obtain ⟨t, freed, rest⟩ := freeEntry_last_spec (toMoment read.expiry s).clock (s.lateReads + 1) resetting last
      refine ⟨t, ?_, rest⟩
      rw [expiry, exec_voidExpiry busy void, frame, freed]
    · obtain ⟨t, freed, rest⟩ := freeEntry_last_spec s.clock s.lateReads resetting last
      refine ⟨t, ?_, rest⟩
      have answer : c = .fetchErrorAnswer e ∨ ∃ data, c = .fetchDataAnswer e data := by tauto
      rw [exec_voidAnswer busy void (intime expiry) answer, ← freed]

end Sys2Proof.Machine
end

section
/-! SUPPORT. Proofs/Formats.lean: the words of the register window and the bytes of a command record (O16, O60). -/

namespace Sys2Proof.Machine

open Sys2Proof Sys2Proof.Claims

/-! ## Writes of the window (10.5) -/

theorem runs_one {c : Instr} {s t : State} (h : exec c s = .next t) : Runs [c] s t := ⟨t, h, rfl⟩

theorem runs_cons {c : Instr} {cs : List Instr} {s t u : State} (h : exec c s = .next u) (k : Runs cs u t) : Runs (c :: cs) s t :=
  ⟨u, h, k⟩

/-- The part when the first two fields of a write of CONTROL have acted. -/
def afterLimits (w : Word) (s : State) : State :=
  { s with fetchLimit := w.extractLsb' 8 8, dividerHeld := dividerAfter (w.extractLsb' 16 5) }

/-- The last command of a write of CONTROL. -/
def controlCommand (w : Word) : Instr := if w.getLsbD 1 = true then .engineReset true else .run (w.getLsbD 0)

theorem runs_control {s t : State} {w : Word} (ready : s.inReset = none) (h : exec (controlCommand w) (afterLimits w s) = .next t) :
    Runs (windowWrite 0x04 w) s t := by
  refine runs_cons (u := { s with fetchLimit := w.extractLsb' 8 8 }) (congrArg _ (hostWrite_open _ ready)) (runs_cons ?_ (runs_one h))
  exact congrArg _ (hostWrite_open (s := { s with fetchLimit := w.extractLsb' 8 8 }) _ ready)

/-! ## Words as numbers -/

theorem bit_le_one (b : Bool) : bit b ≤ 1 := by unfold bit; split <;> omega

/-- A bit of a packed word. -/
theorem getLsbD_packed {n i : Nat} {b : Bool} (h : n / 2 ^ i % 2 = bit b) (k : i < 32) : (BitVec.ofNat 32 n).getLsbD i = b := by
  rw [BitVec.getLsbD_ofNat, Nat.testBit_eq_decide_div_mod_eq, h]
  cases b <;> simp [k, bit]

/-- A field of a packed word. -/
theorem extract_packed {n start len : Nat} {v : BitVec len} (h : n % 2 ^ 32 / 2 ^ start % 2 ^ len = v.toNat) :
    (BitVec.ofNat 32 n).extractLsb' start len = v :=
  BitVec.eq_of_toNat_eq (by rw [BitVec.extractLsb'_toNat, BitVec.toNat_ofNat, Nat.shiftRight_eq_div_pow, h])

/-! ## The word of STATUS and FAULT (R164, R165) -/

theorem toList_eq_map {α : Type} {n : Nat} (v : Vector α n) : v.toList = (List.finRange n).map fun i => v[i] :=
  List.ext_getElem (by simp) (by simp)

theorem liveContexts_eq (s : State) : liveContexts s = ((List.finRange 16).filter fun c => s.jobs[c].isSome).length := by
  rw [liveContexts, toList_eq_map, List.filter_map, List.length_map]
  rfl

theorem liveContexts_le (s : State) : liveContexts s ≤ 16 := by
  rw [liveContexts_eq]
  exact (List.length_filter_le _ _).trans (by simp)

theorem code_eq_ringNumber (r : FaultRing) : r.code = ringNumber r := by cases r <;> rfl

/-- What the word at 08h shows. -/
theorem readWindow_status {s : State} (ready : s.inReset = none) :
    ∃ w, readWindow s 0x08 = some w ∧ (w.getLsbD 0 = true ↔ s.cp.state ≠ .stopped) ∧ w.getLsbD 1 = s.resetting ∧
      (w.getLsbD 2 = true ↔ s.fault.kinds ≠ noKinds) ∧ w.getLsbD 3 = s.condition ∧
      (w.extractLsb' 4 5).toNat = ((List.finRange 16).filter fun c => s.jobs[c].isSome).length ∧ w.getLsbD 9 = false ∧
      w.extractLsb' 10 2 = ringNumber s.fault.ring ∧ w.getLsbD 12 = s.fault.kinds.ringRead ∧
      w.getLsbD 13 = s.fault.kinds.ringIndex ∧ w.getLsbD 14 = s.fault.kinds.config ∧ w.getLsbD 15 = s.fault.kinds.compIndex ∧
      w.extractLsb' 16 16 = s.fault.index := by
  have running := bit_le_one (cpRunning s)
  have resetting := bit_le_one s.resetting
  have pending := bit_le_one (faultPending s.fault.kinds)
  have condition := bit_le_one s.condition
  have live := liveContexts_le s
  have ring := (s.fault.ring.code).isLt
  have ringRead := bit_le_one s.fault.kinds.ringRead
  have ringIndex := bit_le_one s.fault.kinds.ringIndex
  have config := bit_le_one s.fault.kinds.config
  have compIndex := bit_le_one s.fault.kinds.compIndex
  have index := s.fault.index.isLt
  refine ⟨statusFaultWord s, by simp [readWindow, ready], ?_, ?_, ?_, ?_, ?_, ?_, ?_, ?_, ?_, ?_, ?_, ?_⟩ <;> unfold statusFaultWord
  · rw [getLsbD_packed (b := cpRunning s) (by omega) (by omega)]
    exact decide_eq_true_iff
  · exact getLsbD_packed (by omega) (by omega)
  · rw [getLsbD_packed (b := faultPending s.fault.kinds) (by omega) (by omega), faultPending_iff]
  · exact getLsbD_packed (by omega) (by omega)
  · rw [extract_packed (v := BitVec.ofNat 5 (liveContexts s)) (by rw [BitVec.toNat_ofNat]; omega), BitVec.toNat_ofNat,
      ← liveContexts_eq]
    omega
  · exact getLsbD_packed (b := false) (by rw [show bit false = 0 from rfl]; omega) (by omega)
  · rw [← code_eq_ringNumber]
    exact extract_packed (by omega)
  · exact getLsbD_packed (by omega) (by omega)
  · exact getLsbD_packed (by omega) (by omega)
  · exact getLsbD_packed (by omega) (by omega)
  · exact getLsbD_packed (by omega) (by omega)
  · exact extract_packed (by omega)

/-- What CONTROL shows. -/
theorem readWindow_control {s : State} (ready : s.inReset = none) :
    ∃ w, readWindow s 0x04 = some w ∧ w.getLsbD 0 = s.run ∧ w.extractLsb' 1 7 = 0 ∧ w.extractLsb' 8 8 = s.fetchLimit ∧
      w.extractLsb' 16 5 = s.dividerHeld ∧ w.extractLsb' 21 11 = 0 := by
  have run := bit_le_one s.run
  have limit := s.fetchLimit.isLt
  have divider := s.dividerHeld.isLt
  refine ⟨controlWord s, by simp [readWindow, ready], ?_, ?_, ?_, ?_, ?_⟩ <;> unfold controlWord
  · exact getLsbD_packed (by omega) (by omega)
  · exact extract_packed (by rw [show (0 : BitVec 7).toNat = 0 from rfl]; omega)
  · exact extract_packed (by omega)
  · exact extract_packed (by omega)
  · exact extract_packed (by rw [show (0 : BitVec 11).toNat = 0 from rfl]; omega)

/-! ## Words put together from halves -/

theorem extract_low {n m : Nat} (high : BitVec n) (low : BitVec m) : (high ++ low).extractLsb' 0 m = low := by
  ext i h
  simp [BitVec.getLsbD_append, h]

theorem extract_high {n m : Nat} (high : BitVec n) (low : BitVec m) : (high ++ low).extractLsb' m n = high := by
  ext i h
  simp [BitVec.getLsbD_append, BitVec.getLsbD_eq_getElem h]

theorem extract_middle {n m k : Nat} (high : BitVec n) (middle : BitVec m) (low : BitVec k) :
    (high ++ middle ++ low).extractLsb' k m = middle := by
  ext i h
  simp [BitVec.getLsbD_append, h]

theorem extract_top {n m k : Nat} (high : BitVec n) (middle : BitVec m) (low : BitVec k) :
    (high ++ middle ++ low).extractLsb' (k + m) n = high := by
  ext i h
  have above : k + m + i - k - m = i := by omega
  simp [BitVec.getLsbD_append, show ¬ k + m + i < k by omega, show ¬ k + m + i - k < m by omega, above,
    BitVec.getLsbD_eq_getElem h]

theorem append_extract {n m : Nat} (v : BitVec (n + m)) : v.extractLsb' m n ++ v.extractLsb' 0 m = v := by
  ext i h
  simp only [BitVec.getElem_append, BitVec.getElem_extractLsb', Nat.zero_add]
  split
  · exact BitVec.getLsbD_eq_getElem h
  · rename_i above
    rw [show m + (i - m) = i by omega]
    exact BitVec.getLsbD_eq_getElem h

theorem zero_append (v : Short) : (0 : Short) ++ v = v.setWidth 32 := by
  apply BitVec.eq_of_toNat_eq
  have h := v.isLt
  rw [BitVec.toNat_append, BitVec.toNat_setWidth, show (0 : Short).toNat = 0 from rfl, Nat.zero_shiftLeft, Nat.zero_or]
  omega

/-- Settles O16. -/
theorem registerWindowReadsAndWrites : Obligations.RegisterWindowReadsAndWrites := by
  refine ⟨fun _ _ _ => rfl, fun w => ⟨rfl, rfl, rfl, rfl, rfl, rfl, rfl, rfl, rfl, rfl, rfl, rfl, rfl, rfl, rfl, rfl⟩,
    fun s w ready => ⟨_, rfl, fun reset resetting => ?_, fun reset idle => ?_, fun run => ?_⟩, fun s w ready => ?_, fun s ready => ?_⟩
  · refine runs_control ready ?_
    rw [controlCommand, if_pos reset]
    refine (congrArg _ (hostWrite_open (s := afterLimits w s) _ ready)).trans ?_
    rw [show (afterLimits w s).resetting = true from resetting]
    rfl
  · have taken := exec_engineReset_taken (s := afterLimits w s) ready idle
    refine ⟨_, runs_control ready ?_, taken, ?_⟩
    · rw [controlCommand, if_pos reset]; exact taken
    · unfold takeEngineReset
      split <;> exact ⟨rfl, rfl, rfl⟩
  · refine ⟨_, runs_control ready ?_, exec_run (s := afterLimits w s) _ ready⟩
    rw [controlCommand, if_neg (by rw [run]; nofun)]
    exact exec_run (s := afterLimits w s) _ ready
  · exact ⟨_, runs_cons rfl (runs_one (exec_faultClear _ ready)), exec_faultClear _ ready⟩
  · have read {offset : Nat} {w : Word} (h : readWindow { s with inReset := none } offset = some w) :
        readWindow s offset = some w := by rwa [← ready] at h
    refine ⟨readWindow_control ready, readWindow_status ready, ⟨_, read rfl, ?_, ?_, ?_⟩, ⟨_, _, read rfl, read rfl, ?_⟩,
      ⟨_, _, read rfl, read rfl, ?_⟩, ⟨_, _, read rfl, read rfl, ?_⟩, ⟨_, read rfl, extract_low _ _, extract_high _ _⟩,
      ⟨_, read rfl, extract_low _ _, extract_high _ _⟩, ⟨_, read rfl, extract_low _ _, extract_high _ _⟩, ?_, ?_, ?_⟩
    · exact extract_low _ _
    · exact extract_middle _ _ _
    · exact extract_top (k := 8) (m := 8) _ _ _
    · exact (append_extract (n := 32) (m := 32) s.cp.priority.base).symm
    · exact (append_extract (n := 32) (m := 32) s.cp.normal.base).symm
    · exact (append_extract (n := 32) (m := 32) s.comp.base).symm
    · rw [← zero_append]; exact read rfl
    · rw [← zero_append]; exact read rfl
    · rw [← zero_append]; exact read rfl

/-! ## Command records (10.1, R170) -/

theorem shortAt_shortBytes (v : Short) (l : List Byte) : shortAt (shortBytes v ++ l) 0 = v := append_extract (n := 8) (m := 8) v

theorem wordAt_wordBytes (v : Word) (l : List Byte) : wordAt (wordBytes v ++ l) 0 = v := by
  have high := append_extract (n := 8) (m := 8) (v.extractLsb' 16 16)
  have low := append_extract (n := 8) (m := 8) (v.extractLsb' 0 16)
  calc
    wordAt (wordBytes v ++ l) 0 = v.extractLsb' 16 16 ++ v.extractLsb' 0 16 := by
      conv_rhs => rw [← high, ← low]
      rfl
    _ = v := append_extract (n := 16) (m := 16) v

theorem addrAt_addrBytes (v : Addr) (l : List Byte) : addrAt (addrBytes v ++ l) 0 = v := by
  have high := wordAt_wordBytes (v.extractLsb' 32 32) l
  have low := wordAt_wordBytes (v.extractLsb' 0 32) (wordBytes (v.extractLsb' 32 32) ++ l)
  calc
    addrAt (addrBytes v ++ l) 0 = v.extractLsb' 32 32 ++ v.extractLsb' 0 32 := by
      conv_rhs => rw [← high, ← low]
      rfl
    _ = v := append_extract (n := 32) (m := 32) v

theorem bitZero_flagByte (b : Bool) : bitZero (flagByte b) = b := by cases b <;> rfl

theorem decodeRecord_recordBytes (opcode flags : Byte) (id : Short) (target : Word) {params : List Byte} (h : params.length ≤ 56) :
    decodeRecord (recordBytes opcode flags id target params) = some (recordCommand (recordBytes opcode flags id target params)) :=
  if_pos (by simp [recordBytes, shortBytes, wordBytes]; omega)

theorem cmdId_recordBytes (opcode flags : Byte) (id : Short) (target : Word) (params : List Byte) :
    shortAt (recordBytes opcode flags id target params) 2 = id := shortAt_shortBytes id []

theorem target_recordBytes (opcode flags : Byte) (id : Short) (target : Word) (params : List Byte) :
    wordAt (recordBytes opcode flags id target params) 4 = target := wordAt_wordBytes target []

/-- The address that a record carries from byte 16 on. -/
theorem address_recordBytes (opcode flags : Byte) (id : Short) (target : Word) (a b c d e f g h : Byte) (address : Addr) :
    addrAt (recordBytes opcode flags id target ([a, b, c, d, e, f, g, h] ++ addrBytes address)) 16 = address :=
  addrAt_addrBytes address []

theorem groupFieldsOf_recordBytes (opcode flags : Byte) (id : Short) (target : Word) (f : GroupFields) :
    groupFieldsOf (recordBytes opcode flags id target (groupFieldBytes f)) = f := by
  have period := wordAt_wordBytes f.period []
  have delay := wordAt_wordBytes f.delay []
  have minInterval := wordAt_wordBytes f.minInterval []
  calc
    _ = { f with period := wordAt (wordBytes f.period ++ []) 0, delay := wordAt (wordBytes f.delay ++ []) 0,
                 minInterval := wordAt (wordBytes f.minInterval ++ []) 0 } := rfl
    _ = f := by rw [period, delay, minInterval]

theorem startFieldsOf_recordBytes (opcode : Byte) (id : Short) (target : Word) (f : StartFields) :
    startFieldsOf (recordBytes opcode (flagByte f.isOpen) id target (startFieldBytes f)) = f := by
  have isOpen := bitZero_flagByte f.isOpen
  have markEvery := shortAt_shortBytes f.markEvery []
  have listAddress := addrAt_addrBytes f.listAddress []
  calc
    _ = { f with isOpen := bitZero (flagByte f.isOpen), markEvery := shortAt (shortBytes f.markEvery ++ []) 0,
                 listAddress := addrAt (addrBytes f.listAddress ++ []) 0 } := rfl
    _ = f := by rw [isOpen, markEvery, listAddress]

/-- An OPCODE that names no command. -/
theorem recordCommand_unknown {r : List Byte} (h : 11 < (byteAt r 0).toNat) :
    recordCommand r = .unknownOpcode (byteAt r 0) (shortAt r 2) := by
  unfold recordCommand
  split
  case h_13 => rfl
  all_goals omega

/-- Settles O60: OPCODE picks the command, and each of its operands is read where it was put. -/
theorem recordRoundTrip : Obligations.RecordRoundTrip := by
  intro i bytes formed encoded
  cases i
  case nop id =>
    cases encoded
    refine (decodeRecord_recordBytes 0 0 id 0 (by simp)).trans (congrArg some ?_)
    exact congrArg Instr.nop (cmdId_recordBytes 0 0 id 0 [])
  case unknownOpcode opcode id =>
    cases encoded
    refine (decodeRecord_recordBytes opcode 0 id 0 (by simp)).trans (congrArg some ?_)
    have unknown : 11 < opcode.toNat := by simpa [wellFormed, definedOpcode] using formed
    rw [recordCommand_unknown (r := recordBytes opcode 0 id 0 []) unknown, cmdId_recordBytes]
    rfl
  case configGroup id target f =>
    cases encoded
    refine (decodeRecord_recordBytes 1 0 id target (by simp [groupFieldBytes, wordBytes, shortBytes])).trans (congrArg some ?_)
    show Instr.configGroup (shortAt _ 2) (wordAt _ 4) (groupFieldsOf _) = _
    rw [cmdId_recordBytes, target_recordBytes, groupFieldsOf_recordBytes]
  case configLanes id first count address =>
    cases encoded
    refine (decodeRecord_recordBytes 2 0 id 0 (by simp [addrBytes, wordBytes, shortBytes])).trans (congrArg some ?_)
    show Instr.configLanes (shortAt _ 2) first count (addrAt _ 16) = _
    rw [cmdId_recordBytes, address_recordBytes]
  case loadProfile id profile address =>
    cases encoded
    refine (decodeRecord_recordBytes 3 0 id 0 (by simp [addrBytes, wordBytes, shortBytes])).trans (congrArg some ?_)
    show Instr.loadProfile (shortAt _ 2) profile (addrAt _ 16) = _
    rw [cmdId_recordBytes, address_recordBytes]
  case startJob id tag f =>
    cases encoded
    refine (decodeRecord_recordBytes 4 (flagByte f.isOpen) id tag (by simp [startFieldBytes, addrBytes, wordBytes, shortBytes])).trans
      (congrArg some ?_)
    show Instr.startJob (shortAt _ 2) (wordAt _ 4) (startFieldsOf _) = _
    rw [cmdId_recordBytes, target_recordBytes, startFieldsOf_recordBytes]
  case appendLines id tag count address =>
    cases encoded
    refine (decodeRecord_recordBytes 5 0 id tag (by simp [addrBytes, wordBytes, shortBytes])).trans (congrArg some ?_)
    show Instr.appendLines (shortAt _ 2) (wordAt _ 4) count (addrAt _ 16) = _
    rw [cmdId_recordBytes, target_recordBytes, address_recordBytes]
  case closeJob id tag =>
    cases encoded
    refine (decodeRecord_recordBytes 6 0 id tag (by simp)).trans (congrArg some ?_)
    exact congrArg₂ Instr.closeJob (cmdId_recordBytes 6 0 id tag []) (target_recordBytes 6 0 id tag [])
  case abortJob id tag =>
    cases encoded
    refine (decodeRecord_recordBytes 7 0 id tag (by simp)).trans (congrArg some ?_)
    exact congrArg₂ Instr.abortJob (cmdId_recordBytes 7 0 id tag []) (target_recordBytes 7 0 id tag [])
  case holdGroup id target =>
    cases encoded
    refine (decodeRecord_recordBytes 8 0 id target (by simp)).trans (congrArg some ?_)
    exact congrArg₂ Instr.holdGroup (cmdId_recordBytes 8 0 id target []) (target_recordBytes 8 0 id target [])
  case releaseGroup id target =>
    cases encoded
    refine (decodeRecord_recordBytes 9 0 id target (by simp)).trans (congrArg some ?_)
    exact congrArg₂ Instr.releaseGroup (cmdId_recordBytes 9 0 id target []) (target_recordBytes 9 0 id target [])
  case drainGroup id target =>
    cases encoded
    refine (decodeRecord_recordBytes 10 0 id target (by simp)).trans (congrArg some ?_)
    exact congrArg₂ Instr.drainGroup (cmdId_recordBytes 10 0 id target []) (target_recordBytes 10 0 id target [])
  case reportGroup id target clear address =>
    cases encoded
    refine (decodeRecord_recordBytes 11 (flagByte clear) id target (by simp [addrBytes, wordBytes, shortBytes])).trans
      (congrArg some ?_)
    show Instr.reportGroup (shortAt _ 2) (wordAt _ 4) (bitZero (flagByte clear)) (addrAt _ 16) = _
    rw [cmdId_recordBytes, target_recordBytes, bitZero_flagByte, address_recordBytes]
  all_goals cases encoded

end Sys2Proof.Machine
end

section
/-! SUPPORT. Proofs/CommandProcessor.lean: late answers, reservation and take decision, failed reads, NOP (O33 to O36). -/

namespace Sys2Proof.Machine

open Sys2Proof Sys2Proof.Claims

theorem next_congr {s t : State} (h : s = t) : (Host.Outcome.next s : Result) = .next t := congrArg _ h

/-! ## Late answers (R100, R115, R120) -/

theorem onRecord_of_no_read {s : State} (f : SubRing → State → State) (h : ∀ r, ¬ RecordRead s r) : onRecord f s = s :=
  onRecord_not_taken f fun r e read intime => h r ⟨e, read, intime⟩

/-- A record that comes with no live record read changes nothing. -/
theorem exec_record_of_no_read {c : Instr} {s : State} (record : recordAnswer c = true) (formed : wellFormed c = true)
    (h : ∀ r, ¬ RecordRead s r) : exec c s = .next s := by
  have late (f : SubRing → State → State) : (Host.Outcome.next (onRecord f s) : Result) = .next s := by rw [onRecord_of_no_read f h]
  cases c
  case unknownOpcode opcode id =>
    have unknown : definedOpcode opcode = false := by simpa [wellFormed] using formed
    simp only [exec, execUnknownOpcode, unknown, Bool.false_eq_true, if_false]
    exact late _
  case nop | configGroup | configLanes | loadProfile | startJob | appendLines | closeJob | abortJob | holdGroup | releaseGroup
    | drainGroup | reportGroup => exact late _
  all_goals cases record

/-- A table that comes with no live table read changes nothing. -/
theorem exec_table_of_no_read {s : State} (h : ∀ r a, ¬ TableRead s r a) :
    exec .auxiliaryReadError s = .next s ∧ ∀ data, exec (.auxiliaryReadData data) s = .next s := by
  have late {r : SubRing} {e : Nat} {a : AuxCommand} (read : s.cp.state = .auxiliary r e a) : ¬ s.clock.now ≤ e :=
    fun intime => h r a ⟨e, read, intime⟩
  refine ⟨?_, fun data => ?_⟩
  · simp only [exec, execAuxiliaryReadError]
    split
    · rw [if_neg (late ‹_›)]
    all_goals rfl
  · simp only [exec, execAuxiliaryReadData]
    split
    · rw [if_neg (late ‹_›)]
    all_goals rfl

/-- Settles O33. -/
theorem lateAnswersAreDiscarded : Obligations.LateAnswersAreDiscarded := by
  intro s
  refine ⟨rfl, rfl, fun e data late => ?_, fun e free => ?_,
    fun none => ⟨congrArg _ (onRecord_of_no_read _ none), fun c record formed => exec_record_of_no_read record formed none⟩,
    exec_table_of_no_read⟩
  · simp only [exec, execFetchDataAnswer, execFetchErrorAnswer]
    split
    · exact ⟨rfl, rfl⟩
    · have passed := late _ ‹_›
      simp only [if_neg (Nat.not_le.mpr passed), and_self]
  · simp only [exec, execFetchExpiry, free]

/-! ## Ring faults (R111, R113, R165) -/

/-- A fault that stops the taking of records. -/
theorem stopTaking_handFault (kind : FaultKinds) (ring : FaultRing) (index : Short) (s : State) :
    StopsWith s (stopTaking (handFault kind ring index s)) kind ring index := by
  have rest := handFault_rest kind ring index s
  refine ⟨rfl, ?_, fun same => ?_, fun fresh => ?_, ?_⟩
  · have cp := congrArg State.cp rest
    exact congrArg (fun x : CommandProcessor => { x with state := .stopped }) cp
  · rw [handFault_same kind ring index s same]
    exact ⟨rfl, rfl, rfl⟩
  · exact handFault_evaluated ring index fresh
  · exact congrArg (fun x : State => { x with run := s.run, cp := s.cp }) rest

theorem subRingFault_eq (r : SubRing) : subRingFault r = ringOf r := by cases r <;> rfl

theorem ringRegs_eq (r : SubRing) (s : State) : ringRegs s.cp r = regsOf r s := by cases r <;> rfl

/-! ## Reservation and take decision (R109 to R113) -/

theorem issueRecordRead_eq_readingRecord (r : SubRing) (s : State) : issueRecordRead r s = ReadingRecord r s := by
  rw [issueRecordRead_eq, ReadingRecord, recordAddress, ringRegs_eq, readExpiry, periods, Nat.mul_comm]

theorem producerBad_eq_false {regs : RingRegs} (h : ¬ ProducerBad regs) : producerBad regs = false := by
  rwa [← Bool.not_eq_true, producerBad_iff]

theorem holdsRecords_eq_false {regs : RingRegs} (h : ¬ HoldsRecords regs) : holdsRecords regs = false := by
  rwa [← Bool.not_eq_true, holdsRecords_iff]

theorem chooseRing_none {cp : CommandProcessor} (h : ¬ HoldsRecords cp.priority) (k : ¬ HoldsRecords cp.normal) :
    chooseRing cp = none := by
  simp [chooseRing_eq, holdsRecords_eq_false h, holdsRecords_eq_false k]

theorem takeReservation_eq {s : State} (reserving : s.cp.state = .reserving) (room : s.holding.length < 8) :
    takeReservation s = takeDecision { s with cp := { s.cp with reserved := true, state := .looking } } :=
  if_pos ⟨reserving, room⟩

/-- Settles O34. -/
theorem reservationAndTakeDecision : Obligations.ReservationAndTakeDecision := by
  intro s
  refine ⟨fun blocked => ?_, fun reserving room => ⟨congrArg _ (takeReservation_eq reserving room), fun empty range off => ?_⟩,
    fun other => congrArg _ (takeDecision_other other), fun looking => ⟨fun bad => ?_, fun ok bad => ?_, fun ok ok' => ⟨?_, ?_, ?_⟩⟩⟩
  · refine congrArg _ (if_neg ?_)
    rintro ⟨reserving, room⟩
    rcases blocked with other | full
    · exact other reserving
    · exact absurd (show s.holding.length < 8 from room) (Nat.not_lt.mpr full)
  · refine congrArg _ ((takeReservation_eq reserving room).trans (takeDecision_none ?_ ?_ (chooseRing_none ?_ ?_)))
    · exact producerBad_eq_false fun ⟨inUse, above⟩ => by
        rcases range with zero | below
        · exact inUse (BitVec.eq_of_toNat_eq zero)
        · exact absurd above (Nat.not_le.mpr below)
    · exact producerBad_eq_false fun bad => bad.1 off
    · exact fun holds => holds.2 empty
    · exact fun holds => holds.1 off
  · exact ⟨_, next_congr (takeDecision_priority_bad looking ((producerBad_iff _).mpr bad)), stopTaking_handFault _ _ _ s⟩
  · exact ⟨_, next_congr (takeDecision_normal_bad looking (producerBad_eq_false ok) ((producerBad_iff _).mpr bad)),
      stopTaking_handFault _ _ _ s⟩
  · exact fun none none' => congrArg _ (takeDecision_none (producerBad_eq_false ok) (producerBad_eq_false ok') (chooseRing_none none none'))
  · intro normal turn
    have chosen : chooseRing s.cp = some .normal := by
      rw [chooseRing_eq, (holdsRecords_iff _).mpr normal, if_neg, if_pos rfl]
      rintro ⟨priority, no | few⟩
      · cases no
      · rcases turn with no | many
        · exact no ((holdsRecords_iff _).mp priority)
        · omega
    rw [← issueRecordRead_eq_readingRecord]
    exact congrArg _ (takeDecision_some looking (producerBad_eq_false ok) (producerBad_eq_false ok') chosen)
  · intro priority turn
    have chosen : chooseRing s.cp = some .priority := by
      rw [chooseRing_eq]
      exact if_pos ⟨(holdsRecords_iff _).mpr priority, turn.imp_left holdsRecords_eq_false⟩
    rw [← issueRecordRead_eq_readingRecord]
    exact congrArg _ (takeDecision_some looking (producerBad_eq_false ok) (producerBad_eq_false ok') chosen)

/-! ## Failed reads (R113, R115, R120) -/

theorem ringReadFault_stops (r : SubRing) (s : State) :
    StopsWith s (ringReadFault r s) kindRingRead (ringOf r) (regsOf r s).consumer := by
  rw [← subRingFault_eq, ← ringRegs_eq]
  exact stopTaking_handFault _ _ _ s

theorem toMoment_cp (m : Nat) (s : State) : (toMoment m s).cp = s.cp := by
  have e := congrArg State.cp (toMoment_spec m s).1
  exact e

theorem noteVoidRead_toMoment (m : Nat) (s : State) :
    noteVoidRead (toMoment m s) = { toMoment m s with cp := { s.cp with voidReads := s.cp.voidReads + 1 } } := by
  rw [← toMoment_cp m s]
  rfl

/-- Settles O35. -/
theorem failedReadsOfTheCommandProcessor : Obligations.FailedReadsOfTheCommandProcessor := by
  intro s
  refine ⟨fun r e read => ?_, fun r read => ?_, fun r e a read => ?_, fun r a ⟨e, read, intime⟩ => ?_, fun none => ?_, fun none => ?_⟩
  · refine ⟨toMoment e s, ringReadFault r (noteVoidRead (toMoment e s)), toMoment_spec e s, ?_, ?_⟩
    · simp only [exec, execRecordReadExpiry, read]
    · have stops := ringReadFault_stops r (noteVoidRead (toMoment e s))
      rw [noteVoidRead_toMoment] at stops ⊢
      cases r <;> exact stops
  · exact ⟨_, next_congr (onRecord_of_recordRead _ read), ringReadFault_stops r s⟩
  · refine ⟨toMoment e s, toMoment_spec e s, ?_⟩
    have taken : exec .auxiliaryReadExpiry s = .next (respond r (auxCmdId a) .readFault 0 (noteVoidRead (toMoment e s))) := by
      simp only [exec, execAuxiliaryReadExpiry, read]
    rw [taken, noteVoidRead_toMoment, respond_eq_ended]
  · simp only [exec, execAuxiliaryReadError, read, if_pos intime]
    rw [respond_eq_ended]
  · simp only [exec, execRecordReadExpiry]
    split
    · exact absurd ‹_› (none _ _)
    all_goals rfl
  · simp only [exec, execAuxiliaryReadExpiry]
    split
    · exact absurd ‹_› (none _ _ _)
    all_goals rfl

/-! ## NOP and UNKNOWN_OPCODE (R114, R125) -/

/-- Settles O36. -/
theorem nopAndUnknownOpcodeEnd : Obligations.NopAndUnknownOpcodeEnd := by
  intro s r id read
  refine ⟨?_, fun op unknown => ?_, fun op known => ?_⟩
  · rw [← respond_eq_ended]
    exact congrArg _ (onRecord_of_recordRead _ read)
  · have unknown : definedOpcode op = false := decide_eq_false (Nat.not_le.mpr unknown)
    simp only [exec, execUnknownOpcode, unknown, Bool.false_eq_true, if_false]
    rw [onRecord_of_recordRead _ read, respond_eq_ended]
  · have known : definedOpcode op = true := decide_eq_true known
    simp only [exec, execUnknownOpcode, known, if_true]

end Sys2Proof.Machine
end

section
/-! SUPPORT. Proofs/Records.lean: the records of the Command Reference at their record and state checks (O37 to O39, O46, O47). -/

namespace Sys2Proof.Machine

open Sys2Proof Sys2Proof.Claims

/-- A record whose read is in flight runs what its command does when taken. -/
theorem next_onRecord {s : State} {r : SubRing} (f : SubRing → State → State) (h : RecordRead s r) :
    (Host.Outcome.next (onRecord f s) : Result) = .next (f r s) := next_congr (onRecord_of_recordRead f h)

/-! ## CONFIG_GROUP (R52, R126 to R129) -/

theorem configGroupTaken_badTarget {target : Word} (id : Short) (f : GroupFields) (r : SubRing) (s : State) (h : 3 < target.toNat) :
    configGroupTaken id target f r s = Ended r id .badField 0 s := by
  rw [← respond_eq_ended, configGroupTaken, targetGroup_none h]

theorem configGroupTaken_refused {target : Word} {g : GroupId} {f : GroupFields} {s : State} {status : Status} (id : Short) (r : SubRing)
    (h : target.toNat = g.val) (refused : configGroupStatus s g f = status) (bad : status ≠ .ok) :
    configGroupTaken id target f r s = Ended r id status 0 s := by
  rw [← respond_eq_ended, ← refused, configGroupTaken, targetGroup_some h]
  exact if_neg (by rwa [refused])

theorem configGroupTaken_ok {target : Word} {g : GroupId} {f : GroupFields} {s : State} (id : Short) (r : SubRing)
    (h : target.toNat = g.val) (ok : configGroupStatus s g f = .ok) :
    configGroupTaken id target f r s = Ended r id .ok 0 (applyConfigGroup g f s) := by
  rw [← respond_eq_ended, configGroupTaken, targetGroup_some h]
  exact if_pos ok

/-- The initial clock of an accepted configuration (R54). -/
theorem initialClock_eq {g : GroupId} {f : GroupFields} (tick : Nat) (h : FieldsInRange g f) :
    initialClock f tick = if f.laneCount = 0 then .stopped else if f.source = 0 then .counting tick
      else if f.source = 1 then .waitEdge else .waitLeader := by
  by_cases off : f.laneCount = 0
  · rw [if_pos off]
    exact if_neg (by rw [configured_iff]; exact not_not.mpr off)
  · obtain ⟨-, -, source, -⟩ := h.2 off
    rw [if_neg off, initialClock, if_pos ((configured_iff f).mpr off)]
    rcases byteSource_cases f.source with ⟨e, k⟩ | ⟨e, k⟩ | ⟨e, k⟩ | ⟨e, k⟩
    · simp [e, byteSource]
    · simp [e, byteSource]
    · simp [e, byteSource]
    · exact absurd source (Nat.not_le.mpr e)

theorem applyConfigGroup_eq {g : GroupId} {f : GroupFields} (s : State) (h : FieldsInRange g f) :
    applyConfigGroup g f s = { s with configs := s.configs.set g f, groups := s.groups.set g (Reconfigured s f s.groups[g]) } := by
  rw [Reconfigured, ← initialClock_eq s.clock.tick h]
  rfl

section
variable {s : State} {g : GroupId} {f : GroupFields}

theorem configGroupStatus_badField (h : ¬ FieldsInRange g f) : configGroupStatus s g f = .badField :=
  if_pos (by rwa [← Bool.not_eq_true, groupFieldsOk_iff])

variable (inRange : FieldsInRange g f)
include inRange

theorem configGroupStatus_busy (h : ConfigBusy s g f) : configGroupStatus s g f = .groupBusy := by
  rw [configGroupStatus, if_neg (by simp [(groupFieldsOk_iff g f).mpr inRange]), if_pos ((configBusy_iff s g f).mpr h)]

variable (idle : ¬ ConfigBusy s g f)
include idle

theorem configGroupStatus_off (off : f.laneCount = 0) : configGroupStatus s g f = .ok := by
  have noFields : ¬ groupFieldsOk g f = false := by simp [(groupFieldsOk_iff g f).mpr inRange]
  rw [configGroupStatus, if_neg noFields, if_neg (by rwa [configBusy_iff])]
  simp [off]

/-- The checks of a configured group's fields against the other groups (R128). -/
theorem configGroupStatus_on (on : f.laneCount ≠ 0) :
    (SharesLane s g f → configGroupStatus s g f = .laneConflict) ∧
    (¬ SharesLane s g f → MakesLoop s g f → configGroupStatus s g f = .followLoop) ∧
    (¬ SharesLane s g f → ¬ MakesLoop s g f → LeaderOff s f → configGroupStatus s g f = .groupOff) ∧
    (¬ SharesLane s g f → ¬ MakesLoop s g f → ¬ LeaderOff s f → configGroupStatus s g f = .ok) := by
  have noFields : ¬ groupFieldsOk g f = false := by simp [(groupFieldsOk_iff g f).mpr inRange]
  rw [configGroupStatus, if_neg noFields, if_neg (by rwa [configBusy_iff]), ← laneConflict_iff s inRange, ← followLoop_iff s g on,
    ← leaderOff_iff s on, decide_eq_true on]
  simp only [Bool.true_and]
  refine ⟨fun a => if_pos a, fun a b => ?_, fun a b c => ?_, fun a b c => ?_⟩
  · rw [if_neg a, if_pos b]
  · rw [if_neg a, if_neg b, if_pos c]
  · rw [if_neg a, if_neg b, if_neg c]

end

/-- Settles O37. -/
theorem configGroupChecksInOrderAndApplies : Obligations.ConfigGroupChecksInOrderAndApplies := by
  intro s r id target f read
  have taken : exec (.configGroup id target f) s = .next (configGroupTaken id target f r s) := next_onRecord _ read
  rw [taken]
  refine ⟨fun high => next_congr (configGroupTaken_badTarget id f r s high), fun g named => ?_⟩
  have refused {status : Status} (bad : status ≠ .ok) (h : configGroupStatus s g f = status) :
      (Host.Outcome.next (configGroupTaken id target f r s) : Result) = .next (Ended r id status 0 s) :=
    next_congr (configGroupTaken_refused id r named h bad)
  refine ⟨fun bad => refused nofun (configGroupStatus_badField bad), fun inRange => ⟨fun busy => ?_, fun idle => ?_⟩⟩
  · exact refused nofun (configGroupStatus_busy inRange busy)
  · refine ⟨fun on shares => ?_, fun on apart loop => ?_, fun on apart line off => ?_, fun accepted => ?_⟩
    · exact refused nofun ((configGroupStatus_on inRange idle on).1 shares)
    · exact refused nofun ((configGroupStatus_on inRange idle on).2.1 apart loop)
    · exact refused nofun ((configGroupStatus_on inRange idle on).2.2.1 apart line off)
    · have ok : configGroupStatus s g f = .ok := by
        by_cases off : f.laneCount = 0
        · exact configGroupStatus_off inRange idle off
        · obtain ⟨apart, line, leader⟩ := accepted.resolve_left off
          exact (configGroupStatus_on inRange idle off).2.2.2 apart line leader
      rw [configGroupTaken_ok id r named ok, applyConfigGroup_eq s inRange]

/-! ## Record checks of the other commands -/

theorem lanesFieldsOk_iff (first count : Byte) (address : Addr) :
    lanesFieldsOk first count address = true ↔ LanesInRange first count address := by
  rw [lanesFieldsOk, Bool.and_eq_true, decide_eq_true_iff, aligned4_iff, LanesInRange]
  exact ⟨fun ⟨⟨a, b, _, c⟩, d⟩ => ⟨a, b, c, d⟩, fun ⟨a, b, c, d⟩ => ⟨⟨a, b, by omega, c⟩, d⟩⟩

theorem lanesBusy_iff {s : State} {first count : Byte} (h : first.toNat + count.toNat ≤ 64) :
    lanesBusy s first count = true ↔ LanesBusy s first count := by
  unfold lanesBusy LanesBusy
  simp only [List.any_eq_true, List.mem_finRange, true_and, Bool.and_eq_true, listBusy_iff, List.mem_range, decide_eq_true_eq]
  constructor
  · rintro ⟨g, busy, lane, -, ⟨low, high⟩, inside⟩
    exact ⟨g, busy, lane, low, high, inside⟩
  · rintro ⟨g, busy, lane, low, high, inside⟩
    exact ⟨g, busy, lane, by omega, ⟨low, high⟩, inside⟩

theorem bytePolicy_none {b : Byte} (h : 2 < b.toNat) : bytePolicy b = none := by
  unfold bytePolicy
  split <;> first | rfl | omega

theorem bytePolicy_cases {b : Byte} (h : b.toNat ≤ 2) :
    b = 0 ∧ bytePolicy b = some .skip ∨ b = 1 ∧ bytePolicy b = some .hold ∨ b = 2 ∧ bytePolicy b = some .stop := by
  unfold bytePolicy
  split
  · exact .inl ⟨BitVec.eq_of_toNat_eq ‹_›, rfl⟩
  · exact .inr (.inl ⟨BitVec.eq_of_toNat_eq ‹_›, rfl⟩)
  · exact .inr (.inr ⟨BitVec.eq_of_toNat_eq ‹_›, rfl⟩)
  · have no : b.toNat ≠ 0 ∧ b.toNat ≠ 1 ∧ b.toNat ≠ 2 := ⟨‹_›, ‹_›, ‹_›⟩
    omega

/-- The parameters of a START_JOB record whose checks hold are unique. -/
theorem jobParams_some {f : StartFields} {p : JobParams} (h : StartInRange f) (k : ParamsOf f p) : jobParams f = some p := by
  obtain ⟨-, -, policyRange, depth, arm, extents, opened, address⟩ := h
  obtain ⟨group, profile, policy, pDepth, pArm, mark, pOpen, count⟩ := k
  have policy : bytePolicy f.policy = some p.policy := by
    rcases policy with ⟨e, q⟩ | ⟨e, q⟩ | ⟨e, q⟩ <;> rw [e, q] <;> rfl
  rw [jobParams, byteGroup_some group.symm, byteProfile_some profile.symm, policy]
  refine (if_pos ⟨depth, arm, extents, opened, address.imp_right (aligned4_iff _).mpr⟩).trans ?_
  rw [← pDepth, ← pArm, ← mark, ← pOpen, ← count]

theorem jobParams_exists {f : StartFields} (h : StartInRange f) : ∃ p, ParamsOf f p ∧ jobParams f = some p := by
  obtain ⟨group, profile, policy, -⟩ := id h
  obtain ⟨pol, named⟩ : ∃ pol, f.policy = 0 ∧ pol = Policy.skip ∨ f.policy = 1 ∧ pol = .hold ∨ f.policy = 2 ∧ pol = .stop := by
    rcases bytePolicy_cases policy with ⟨e, -⟩ | ⟨e, -⟩ | ⟨e, -⟩ <;> simp [e]
  let p : JobParams :=
    { group := ⟨f.group.toNat, by omega⟩, profile := ⟨f.profile.toNat, by omega⟩, policy := pol, depth := f.depth.toNat,
      armLevel := f.armLevel.toNat, markEvery := f.markEvery, isOpen := f.isOpen, extentCount := f.extentCount.toNat }
  have params : ParamsOf f p := ⟨rfl, rfl, named, rfl, rfl, rfl, rfl, rfl⟩
  exact ⟨_, params, jobParams_some h params⟩

theorem jobParams_none {f : StartFields} (h : ¬ StartInRange f) : jobParams f = none := by
  by_contra some
  obtain ⟨p, k⟩ := Option.ne_none_iff_exists'.mp some
  refine h ?_
  unfold jobParams at k
  split at k
  · rename_i g q pol group profile policy
    split at k
    · rename_i checks
      obtain ⟨depth, arm, extents, opened, address⟩ := checks
      have low : f.group.toNat ≤ 3 := by rw [byteGroup_eq_some group]; omega
      have seven : f.profile.toNat ≤ 7 := by
        by_contra high
        rw [byteProfile_none (Nat.lt_of_not_le high)] at profile
        cases profile
      have two : f.policy.toNat ≤ 2 := by
        by_contra high
        rw [bytePolicy_none (Nat.lt_of_not_le high)] at policy
        cases policy
      exact ⟨low, seven, two, depth, arm, extents, opened, address.imp_right (aligned4_iff _).mp⟩
    · cases k
  · cases k

theorem appendFieldsOk_iff (count : Byte) (address : Addr) : appendFieldsOk count address = true ↔ AppendInRange count address := by
  rw [appendFieldsOk, Bool.and_eq_true, decide_eq_true_iff, aligned4_iff, AppendInRange, and_assoc]

/-! ## TAGs (R3) -/

theorem findTag_of_carries {s : State} {tag : Word} {c : CtxId} {j : Job} (h : Carries s tag c j) : findTag s tag = some c :=
  findTag_some h.1 h.2.1 fun d x before live => h.2.2 d x before live

theorem findTag_of_not_live {s : State} {tag : Word} (h : ¬ TagLive s tag) : findTag s tag = none :=
  findTag_none fun c x live same => h ⟨c, x, live, same⟩

theorem findTag_isSome_of_live {s : State} {tag : Word} (h : TagLive s tag) : (findTag s tag).isSome = true := by
  obtain ⟨c, j, live, same⟩ := h
  rw [findTag, List.find?_isSome]
  exact ⟨c, List.mem_finRange c, by simp [live, same]⟩

theorem notEnded_of_not_isEnded {j : Job} (h : ¬ IsEnded j) : notEnded j = true := (notEnded_iff j).mpr fun st e => h ⟨st, e⟩

theorem notEnded_eq_false {j : Job} (h : IsEnded j) : notEnded j = false := by
  obtain ⟨st, e⟩ := h
  rw [← Bool.not_eq_true, notEnded_iff]
  exact fun k => k st e

section
variable {s : State} {tag : Word} {c : CtxId} {j : Job} (r : SubRing) (id : Short) (f : CtxId → Job → State → State)

theorem withJob_notFound (h : ¬ TagLive s tag) : withJob r id tag f s = Ended r id .notFound 0 s := by
  rw [withJob_none f (findTag_of_not_live h), respond_eq_ended]

theorem withJob_isEnded (h : Carries s tag c j) (k : IsEnded j) : withJob r id tag f s = Ended r id .jobEnded 0 s := by
  rw [withJob_ended f (findTag_of_carries h) h.1 (notEnded_eq_false k), respond_eq_ended]

theorem withJob_carries (h : Carries s tag c j) (k : ¬ IsEnded j) : withJob r id tag f s = f c j s :=
  withJob_live f (findTag_of_carries h) h.1 (notEnded_of_not_isEnded k)

end

/-! ## The status of a START_JOB (R134) -/

/-- The lowest-numbered free context, if there is a free one. -/
theorem freeContext_exists {s : State} (free : ∃ c : CtxId, s.jobs[c] = none) :
    ∃ c, freeContext s = some c ∧ s.jobs[c] = none ∧ ∀ d : CtxId, d < c → s.jobs[d] ≠ none := by
  have wf : WellFounded fun a b : CtxId => a < b := wellFounded_lt
  refine ⟨wf.min _ free, ?_, wf.min_mem _ free, fun d below none => wf.not_lt_min _ none below⟩
  exact freeContext_some (wf.min_mem _ free) fun d below none => wf.not_lt_min _ none below

section
variable {s : State} {tag : Word} {p : JobParams}

theorem startJobStatus_off (off : s.configs[p.group].laneCount = 0) : startJobStatus s tag p = .groupOff :=
  if_pos (by rw [← Bool.not_eq_true, configured_iff]; exact not_not.mpr off)

variable (on : s.configs[p.group].laneCount ≠ 0)
include on

theorem startJobStatus_tagInUse (live : TagLive s tag) : startJobStatus s tag p = .tagInUse := by
  rw [startJobStatus, if_neg (by rw [(configured_iff _).mpr on]; nofun), if_pos (findTag_isSome_of_live live)]

variable (fresh : ¬ TagLive s tag)
include fresh

theorem startJobStatus_noContext (full : ∀ c : CtxId, s.jobs[c] ≠ none) : startJobStatus s tag p = .noContext := by
  rw [startJobStatus, if_neg (by rw [(configured_iff _).mpr on]; nofun), if_neg (by simp [findTag_of_not_live fresh]),
    if_pos (by simp [freeContext_none full])]

theorem startJobStatus_list (free : ∃ c : CtxId, s.jobs[c] = none) :
    startJobStatus s tag p = if 4 ≤ s.lists[p.group].length then .listFull else .ok := by
  obtain ⟨c, found, -⟩ := freeContext_exists free
  rw [startJobStatus, if_neg (by rw [(configured_iff _).mpr on]; nofun), if_neg (by simp [findTag_of_not_live fresh]),
    if_neg (by simp [found])]
  rfl

end

theorem startJobStatus_ok {s : State} {tag : Word} {p : JobParams} (h : StartFits s tag p.group) : startJobStatus s tag p = .ok := by
  obtain ⟨on, fresh, free, room⟩ := h
  rw [startJobStatus_list on fresh free, if_neg (by omega)]

/-! ## What the checked records do when taken -/

theorem configLanesTaken_refused {first count : Byte} {address : Addr} {s : State} {status : Status} (id : Short) (r : SubRing)
    (refused : configLanesStatus s first count address = status) (bad : status ≠ .ok) :
    configLanesTaken id first count address r s = Ended r id status 0 s := by
  rw [← respond_eq_ended, ← refused]
  exact if_neg (by rwa [refused])

theorem configLanesStatus_badField {first count : Byte} {address : Addr} (s : State) (h : ¬ LanesInRange first count address) :
    configLanesStatus s first count address = .badField := if_pos (by rwa [← Bool.not_eq_true, lanesFieldsOk_iff])

theorem configLanesStatus_inRange {first count : Byte} {address : Addr} (s : State) (h : LanesInRange first count address) :
    configLanesStatus s first count address = if lanesBusy s first count then .groupBusy else .ok :=
  if_neg (by simp [(lanesFieldsOk_iff first count address).mpr h])

/-- A table read that is issued, in the statements' words. -/
theorem issueTableRead_eq_readingTable (r : SubRing) (address : Addr) (a : AuxCommand) (s : State) :
    issueTableRead r address a s = ReadingTable r address (auxLength a) a s := by
  rw [issueTableRead_eq, ReadingTable, readExpiry, periods, Nat.mul_comm]

theorem startJobTaken_refused {f : StartFields} {p : JobParams} {tag : Word} {s : State} {status : Status} (id : Short) (r : SubRing)
    (params : jobParams f = some p) (refused : startJobStatus s tag p = status) (bad : status ≠ .ok) :
    startJobTaken id tag f r s = Ended r id status 0 s := by
  rw [← respond_eq_ended, ← refused, startJobTaken, params]
  exact if_neg (by rwa [refused])

/-- Settles O38. -/
theorem acceptedRecordsReadTheirTables : Obligations.AcceptedRecordsReadTheirTables := by
  intro s r id read
  refine ⟨fun first count address inRange idle => ?_, fun profile p address named aligned => ?_,
    fun tag f p inRange params fits table => ?_, fun tag count address c j inRange carries live opened room => ?_⟩
  · refine (next_onRecord _ read).trans (next_congr ?_)
    have ok : configLanesStatus s first count address = .ok := by
      rw [configLanesStatus_inRange s inRange, if_neg (by rwa [lanesBusy_iff inRange.2.2.1])]
    rw [configLanesTaken, if_pos ok, issueTableRead_eq_readingTable]
    rfl
  · refine (next_onRecord _ read).trans (next_congr ?_)
    rw [loadProfileTaken, byteProfile_some named]
    refine (if_pos ((aligned4_iff address).mpr aligned)).trans ?_
    rw [issueTableRead_eq_readingTable]
    rfl
  · refine (next_onRecord _ read).trans (next_congr ?_)
    have count : p.extentCount = f.extentCount.toNat := params.2.2.2.2.2.2.2
    have some : p.extentCount ≠ 0 := fun zero => table (BitVec.eq_of_toNat_eq (count.symm.trans zero))
    rw [startJobTaken, jobParams_some inRange params]
    refine (if_pos (startJobStatus_ok fits)).trans ((if_neg some).trans ?_)
    rw [issueTableRead_eq_readingTable, auxLength, count]
  · refine (next_onRecord _ read).trans (next_congr ?_)
    rw [appendLinesTaken, if_pos ((appendFieldsOk_iff count address).mpr inRange), withJob_carries r id _ carries live, appendToJob,
      if_neg (by simp [opened]), if_neg (show ¬ Config.extentCapacity < _ from Nat.not_lt.mpr room), issueTableRead_eq_readingTable]
    rfl

/-- Settles O39: the checks in their order, command by command. -/
theorem refusedRecordsChangeNothing : Obligations.RefusedRecordsChangeNothing := by
  intro s r id read
  have append {tag count address} (inRange : AppendInRange count address) :
      exec (.appendLines id tag count address) s = .next (withJob r id tag (appendToJob id tag count address r) s) :=
    (next_onRecord _ read).trans (next_congr (if_pos ((appendFieldsOk_iff count address).mpr inRange)))
  have close (tag) : exec (.closeJob id tag) s = .next (withJob r id tag (closeOpenJob id r) s) := next_onRecord _ read
  have abort (tag) : exec (.abortJob id tag) s = .next (withJob r id tag (fun c j t => respond r id .ok 0 (applyAbort c j t)) s) :=
    next_onRecord _ read
  have start {tag f p status} (params : jobParams f = some p) (refused : startJobStatus s tag p = status) (bad : status ≠ .ok) :
      exec (.startJob id tag f) s = .next (Ended r id status 0 s) :=
    (next_onRecord _ read).trans (next_congr (startJobTaken_refused id r params refused bad))
  refine ⟨fun first count address => ⟨fun bad => ?_, fun inRange busy => ?_⟩, fun profile address bad => ?_,
    fun tag f => ⟨fun bad => ?_, fun g inRange named => ?_⟩, fun tag count address bad => ?_,
    fun tag dead => ⟨fun count address inRange => ?_, ?_, ?_⟩,
    fun tag c j carries => ⟨fun ended => ⟨fun count address inRange => ?_, ?_, ?_⟩,
      fun live closed => ⟨fun count address inRange => ?_, ?_⟩, fun live opened count address inRange full => ?_⟩⟩
  · exact (next_onRecord _ read).trans (next_congr (configLanesTaken_refused id r (configLanesStatus_badField s bad) nofun))
  · refine (next_onRecord _ read).trans (next_congr (configLanesTaken_refused id r (status := .groupBusy) ?_ nofun))
    rw [configLanesStatus_inRange s inRange, if_pos ((lanesBusy_iff inRange.2.2.1).mpr busy)]
  · refine (next_onRecord _ read).trans (next_congr ?_)
    rw [← respond_eq_ended, loadProfileTaken]
    split
    · rfl
    · rename_i p named
      refine if_neg fun ok => ?_
      rcases bad with high | odd
      · rw [byteProfile_none high] at named
        cases named
      · exact odd ((aligned4_iff address).mp ok)
  · refine (next_onRecord _ read).trans (next_congr ?_)
    rw [← respond_eq_ended, startJobTaken, jobParams_none bad]
  · obtain ⟨p, params, found⟩ := jobParams_exists inRange
    have same : p.group = g := Fin.ext (params.1.trans named)
    subst same
    refine ⟨fun off => start found (startJobStatus_off off) nofun,
      fun on live => start found (startJobStatus_tagInUse on live) nofun,
      fun on fresh full => start found (startJobStatus_noContext on fresh full) nofun,
      fun on fresh free long => start (status := .listFull) found ?_ nofun⟩
    rw [startJobStatus_list on fresh free, if_pos long]
  · refine (next_onRecord _ read).trans (next_congr ?_)
    rw [← respond_eq_ended]
    exact if_neg (by rwa [appendFieldsOk_iff])
  · rw [append inRange, withJob_notFound r id _ dead]
  · rw [close, withJob_notFound r id _ dead]
  · rw [abort, withJob_notFound r id _ dead]
  · rw [append inRange, withJob_isEnded r id _ carries ended]
  · rw [close, withJob_isEnded r id _ carries ended]
  · rw [abort, withJob_isEnded r id _ carries ended]
  · rw [append inRange, withJob_carries r id _ carries live, appendToJob, if_pos closed, respond_eq_ended]
  · rw [close, withJob_carries r id _ carries live, closeOpenJob, if_pos closed, respond_eq_ended]
  · rw [append inRange, withJob_carries r id _ carries live, appendToJob, if_neg (by simp [opened]), 
      if_pos (show Config.extentCapacity < _ from full), respond_eq_ended]

/-! ## RELEASE_GROUP (R65, R144) -/

theorem ownEvent_of_free {s : State} {g : GroupId} (h : s.groups[g].hold = .none) :
    ownEvent g s = deliver g (withGroup g { s.groups[g] with
      counters := { s.groups[g].counters with lineEvents := counted s.groups[g].counters.lineEvents } } s) := by
  have counting : modCounters g (fun k => { k with lineEvents := satInc k.lineEvents }) s = withGroup g { s.groups[g] with
      counters := { s.groups[g].counters with lineEvents := counted s.groups[g].counters.lineEvents } } s := by
    rw [← satInc_eq_counted]; rfl
  rw [ownEvent, counting, withGroup_get_self, h]

theorem afterRelease_eq_none (h : HoldState) : afterRelease h = .none := by cases h <;> rfl

/-- Settles O46. -/
theorem releaseGroupDeliversLineEvents : Obligations.ReleaseGroupDeliversLineEvents := by
  intro s r id target read
  have taken {v : State} (id : Short) (read : RecordRead v r) :
      exec (.releaseGroup id target) v = .next (holdTaken id target afterRelease r v) := next_onRecord _ read
  refine ⟨fun high => ?_, fun g named => ⟨fun off => ?_, fun on => ⟨?_, fun alone => ?_, fun free v other read' before => ?_⟩⟩⟩
  · rw [taken id read, holdTaken_badField id _ r s high]
  · rw [taken id read, holdTaken_groupOff id _ r named off]
  · rw [taken id read, holdTaken_ok id _ r named on, afterRelease_eq_none]
  · have hold : (withHold g .none s).groups[g].hold = .none := by rw [withHold_get_self]
    rw [produceLineEvent_of_noFollower (s := withHold g .none s) alone, ownEvent_of_free hold, withHold_get_self, withHold,
      withGroup_withGroup]
  · have on' : v.configs[g].laneCount ≠ 0 := by rw [before]; exact on
    refine ⟨_, (taken id read').trans (next_congr (holdTaken_ok id _ r named on')), ?_⟩
    have groups : v.groups = (withHold g .pending s).groups := by rw [before]; rfl
    have pending : v.groups[g] = { s.groups[g] with hold := .pending } := by rw [groups, withHold_get_self]
    show (withHold g (afterRelease v.groups[g].hold) v).groups[g] = s.groups[g]
    rw [withHold_get_self, pending, afterRelease_eq_none, ← free]

/-! ## DRAIN_GROUP (R67, R116, R145) -/

theorem consumed_eq_consumedCp (r : SubRing) (cp : CommandProcessor) : consumed r cp = consumedCp r cp := by cases r <;> rfl

/-- Settles O47. -/
theorem drainGroupAnswersOrParks : Obligations.DrainGroupAnswersOrParks := by
  intro s r id target read
  have taken : exec (.drainGroup id target) s = .next (drainTaken id target r s) := next_onRecord _ read
  rw [taken]
  refine ⟨fun high => next_congr ?_, fun g named => ?_⟩
  · rw [← respond_eq_ended, drainTaken, targetGroup_none high]
  · rw [drainTaken, targetGroup_some named]
    refine ⟨fun empty => ?_, fun busy full => ?_, fun busy room => ⟨_, rfl, fun running => ?_, fun stopped => ?_⟩⟩
    · rw [← respond_eq_ended]
      exact next_congr (if_pos empty)
    · rw [← respond_eq_ended]
      exact next_congr ((if_neg busy).trans (if_neg (Nat.not_lt.mpr full)))
    · refine next_congr (((if_neg busy).trans (if_pos room)).trans ?_)
      rw [endParked_running (show (parkWaiter g id s).run = true from running), consumed_eq_consumedCp]
      rfl
    · refine next_congr (((if_neg busy).trans (if_pos room)).trans ?_)
      rw [endParked_stopped (show (parkWaiter g id s).run = false from stopped), consumed_eq_consumedCp]
      rfl

end Sys2Proof.Machine
end

section
/-! SUPPORT. Proofs/Tables.lean: table reads that answer: lanes, profiles and appended extents, and the test for arming (O41, O42). -/

namespace Sys2Proof.Machine

open Sys2Proof Sys2Proof.Claims

/-! ## Jobs and arming (R8) -/

/-- A change of a live job, as the row it writes. -/
theorem modJob_some {s : State} {c : CtxId} {j : Job} (f : Job → Job) (h : s.jobs[c] = some j) :
    modJob c f s = { s with jobs := s.jobs.set c (some (f j)) } := by
  rw [modJob, vmod, h]
  rfl

theorem jobs_set_self (c : CtxId) (x : Option Job) (v : Vector (Option Job) 16) : (v.set c x)[c] = x := by simp

theorem jobs_set_ne {c d : CtxId} (x : Option Job) (v : Vector (Option Job) 16) (h : d ≠ c) : (v.set c x)[d] = v[d] := by
  have apart : c.val ≠ d.val := fun e => h (Fin.ext e.symm)
  simp [apart]

theorem jobs_set_set (c : CtxId) (x y : Option Job) (v : Vector (Option Job) 16) : (v.set c x).set c y = v.set c y := by simp

theorem lineReady_iff (s : State) (c : CtxId) (j : Job) (line : Nat) :
    lineReady s c j line = true ↔ ∃ i, slotAt s c (line % j.depth) = some i ∧ slotReady s.slots[i].state = true := by
  rw [lineReady, Option.any_eq_true]

/-- The arming condition is that of R8. -/
theorem armed_iff (s : State) (c : CtxId) (j : Job) : armed s c j = true ↔ ArmsNow s c j := by
  unfold armed ArmsNow armCount
  simp only [Bool.and_eq_true, decide_eq_true_eq, List.all_eq_true, List.mem_range, lineReady_iff]

/-- A test for arming of a job that was just stored: it is stored as the test leaves it. -/
theorem armTest_stored (c : CtxId) (m : Job) (s : State) :
    ∃ k, ArmTested s c m k ∧ armTest c { s with jobs := s.jobs.set c (some m) } = { s with jobs := s.jobs.set c (some k) } := by
  have stored : ({ s with jobs := s.jobs.set c (some m) } : State).jobs[c] = some m := jobs_set_self c (some m) s.jobs
  by_cases h : m.state = .primed ∧ ArmsNow s c m
  · refine ⟨{ m with state := .armed }, ⟨fun _ => rfl, fun no => absurd h no⟩, ?_⟩
    have arms : armed { s with jobs := s.jobs.set c (some m) } c m = true := (armed_iff _ c m).mpr h.2
    rw [armTest, stored]
    refine (if_pos ⟨h.1, arms⟩).trans ?_
    rw [setJobState, modJob_some _ stored, jobs_set_set]
  · refine ⟨m, ⟨fun yes => absurd yes h, fun _ => rfl⟩, ?_⟩
    rw [armTest, stored]
    exact if_neg fun ⟨primed, arms⟩ => h ⟨primed, (armed_iff _ c m).mp arms⟩

/-! ## Tables, whole or not at all (R122) -/

theorem mapM_eq_some {α β : Type} {f : α → Option β} {g : α → β} {l : List α} (h : ∀ a ∈ l, f a = some (g a)) :
    l.mapM f = some (l.map g) := by
  induction l with
  | nil => rfl
  | cons a l ih =>
    obtain ⟨first, rest⟩ := List.forall_mem_cons.mp h
    rw [List.mapM_cons, first, ih rest]
    rfl

theorem mapM_eq_none {α β : Type} {f : α → Option β} {l : List α} (h : ∃ a ∈ l, f a = none) : l.mapM f = none := by
  induction l with
  | nil => simp at h
  | cons a l ih =>
    rw [List.mapM_cons]
    cases first : f a with
    | none => rfl
    | some b =>
      have later : ∃ a ∈ l, f a = none := by
        obtain ⟨x, mem, bad⟩ := h
        rcases List.mem_cons.mp mem with rfl | mem
        · rw [bad] at first; cases first
        · exact ⟨x, mem, bad⟩
      rw [ih later]
      rfl

/-- The answer of a table read in flight. -/
theorem exec_table {s : State} {r : SubRing} {a : AuxCommand} (data : List Byte) (read : TableRead s r a) :
    exec (.auxiliaryReadData data) s =
      if data.length = auxLength a then .next (applyTable r a data s) else .fault .answerLength := by
  obtain ⟨e, read, intime⟩ := read
  simp only [exec, execAuxiliaryReadData, read, if_pos intime]

theorem exec_table_length {s : State} {r : SubRing} {a : AuxCommand} {data : List Byte} (read : TableRead s r a)
    (h : data.length ≠ auxLength a) : exec (.auxiliaryReadData data) s = .fault .answerLength := by
  rw [exec_table data read, if_neg h]

theorem exec_table_taken {s : State} {r : SubRing} {a : AuxCommand} {data : List Byte} (read : TableRead s r a)
    (h : data.length = auxLength a) : exec (.auxiliaryReadData data) s = .next (applyTable r a data s) := by
  rw [exec_table data read, if_pos h]

/-! ## Lane tables (R73, R130) -/

/-- A lane record as the table spells it, its two codes in range. -/
def laneOfTable (data : List Byte) (k : Nat) : LaneRecord :=
  { enable := byteAt data (4 * k) = 1
    polarity := if byteAt data (4 * k + 1) = 1 then .activeLow else .activeHigh
    trim := byteAt data (4 * k + 2) }

theorem byte_le_one {b : Byte} (h : b ≤ 1) : b = 0 ∨ b = 1 := by
  bv_omega

theorem laneRecordAt_some {data : List Byte} {k : Nat} (h : byteAt data (4 * k) ≤ 1 ∧ byteAt data (4 * k + 1) ≤ 1) :
    laneRecordAt data k = some (laneOfTable data k) := by
  unfold laneRecordAt laneOfTable
  rcases byte_le_one h.1 with a | a <;> rcases byte_le_one h.2 with b | b <;> rw [a, b] <;> simp

theorem laneRecordAt_none {data : List Byte} {k : Nat} (h : ¬ (byteAt data (4 * k) ≤ 1 ∧ byteAt data (4 * k + 1) ≤ 1)) :
    laneRecordAt data k = none := by
  have range {b : Byte} {n : Nat} (e : b.toNat = n) (small : n ≤ 1) : b ≤ 1 := BitVec.le_def.mpr (by rw [e]; exact small)
  unfold laneRecordAt
  split
  case h_5 => rfl
  all_goals exact absurd ⟨range ‹_› (by omega), range ‹_› (by omega)⟩ h

theorem laneTable_some {data : List Byte} {count : Nat}
    (h : ∀ k, k < count → byteAt data (4 * k) ≤ 1 ∧ byteAt data (4 * k + 1) ≤ 1) :
    laneTable data count = some ((List.range count).map (laneOfTable data)) :=
  mapM_eq_some fun k mem => laneRecordAt_some (h k (List.mem_range.mp mem))

theorem laneTable_none {data : List Byte} {count : Nat}
    (h : ∃ k, k < count ∧ ¬ (byteAt data (4 * k) ≤ 1 ∧ byteAt data (4 * k + 1) ≤ 1)) : laneTable data count = none := by
  obtain ⟨k, below, bad⟩ := h
  exact mapM_eq_none ⟨k, List.mem_range.mpr below, laneRecordAt_none bad⟩

/-- A lane's record after the records of a range have been replaced. -/
theorem applyLanes_get (first : Byte) (records : List LaneRecord) (s : State) (lane : LaneId) :
    (applyLanes first records s).lanes[lane] =
      if first.toNat ≤ lane.val then records.getD (lane.val - first.toNat) s.lanes[lane] else s.lanes[lane] :=
  vmap_getElem (fun lane r => if first.toNat ≤ lane.val then records.getD (lane.val - first.toNat) r else r) s.lanes lane

/-! ## Profile tables (R74, R75, R132) -/

theorem profileTable_whole {data : List Byte} (h : ∀ l, l < 16 → (shortAt data (4 * l)).toNat ≤ 4095) :
    profileTable data = some (Vector.ofFn fun l : Fin 16 => profileEntryAt data l.val) :=
  if_pos (List.all_eq_true.mpr fun l mem => decide_eq_true (h l (List.mem_range.mp mem)))

theorem profileTable_refused {data : List Byte} (h : ∃ l, l < 16 ∧ 4095 < (shortAt data (4 * l)).toNat) : profileTable data = none := by
  obtain ⟨l, below, high⟩ := h
  refine if_neg fun all => ?_
  have entry := of_decide_eq_true (List.all_eq_true.mp all l (List.mem_range.mpr below))
  exact absurd entry (Nat.not_le.mpr high)

/-- Settles O41. -/
theorem laneAndProfileTablesApplyWhole : Obligations.LaneAndProfileTablesApplyWhole := by
  refine ⟨fun s r id first count data read => ⟨exec_table_length read, fun length => ⟨fun bad => ?_, fun ok => ?_⟩⟩,
    fun s r id p data read => ⟨exec_table_length read, fun length => ⟨fun bad => ?_, fun ok => ?_⟩⟩⟩
  · rw [exec_table_taken read length, applyTable, laneTable_none bad, respond_eq_ended]
  · refine ⟨(applyLanes first ((List.range count.toNat).map (laneOfTable data)) s).lanes, ?_, fun lane => ⟨fun k below at_ => ?_,
      fun outside => ?_⟩⟩
    · rw [exec_table_taken read length, applyTable, laneTable_some ok, ← respond_eq_ended]
      rfl
    · have place : lane.val - first.toNat = k := by omega
      rw [applyLanes_get, if_pos (by omega), place, List.getD_eq_getElem _ _ (by simpa using below), List.getElem_map,
        List.getElem_range]
      rfl
    · rw [applyLanes_get]
      split
      · exact List.getD_eq_default _ _ (by simp; omega)
      · rfl
  · rw [exec_table_taken read length, applyTable, profileTable_refused bad, respond_eq_ended]
  · rw [exec_table_taken read length, applyTable, profileTable_whole ok, ← respond_eq_ended]
    rfl

/-! ## Extent tables (R89, R90, R135) -/

theorem extentAt_some {size : Nat} {data : List Byte} {k : Nat} (h : ExtentInRange size (entryOfTable data k)) :
    extentAt size data k = some (entryOfTable data k) := by
  obtain ⟨lines, base, stride, fits⟩ := h
  exact if_pos ⟨lines, (aligned4_iff _).mpr base, stride, fits⟩

theorem extentAt_none {size : Nat} {data : List Byte} {k : Nat} (h : ¬ ExtentInRange size (entryOfTable data k)) :
    extentAt size data k = none :=
  if_neg fun ⟨lines, base, stride, fits⟩ => h ⟨lines, (aligned4_iff _).mp base, stride, fits⟩

theorem extentTable_some {size : Nat} {data : List Byte} {n : Nat} (h : ∀ k, k < n → ExtentInRange size (entryOfTable data k)) :
    extentTable size data n = some (entriesOfTable data n) :=
  mapM_eq_some fun k mem => extentAt_some (h k (List.mem_range.mp mem))

theorem extentTable_none {size : Nat} {data : List Byte} {n : Nat} (h : ∃ k, k < n ∧ ¬ ExtentInRange size (entryOfTable data k)) :
    extentTable size data n = none := by
  obtain ⟨k, below, bad⟩ := h
  exact mapM_eq_none ⟨k, List.mem_range.mpr below, extentAt_none bad⟩

/-- The extents join the back of the job's list, and a PRIMED job is tested for arming. -/
theorem applyAppend_spec {s : State} {c : CtxId} {j : Job} (extents : List Extent) (h : s.jobs[c] = some j) :
    ∃ k, ArmTested s c { j with extents := j.extents ++ numberExtents j.supplied extents
                                supplied := j.supplied + totalLines extents } k ∧
      applyAppend c extents s = { s with jobs := s.jobs.set c (some k) } := by
  rw [applyAppend, modJob_some _ h]
  exact armTest_stored c _ s

/-- Settles O42. -/
theorem appendedExtentsJoinTheJob : Obligations.AppendedExtentsJoinTheJob := by
  intro s r id tag g supplied n data read
  refine ⟨exec_table_length read, fun length => ?_⟩
  rw [exec_table_taken read length, applyTable]
  refine ⟨fun bad => ?_, fun ok room => ?_⟩
  · by_cases range : ∃ k, k < n ∧ ¬ ExtentInRange (lineSize s.configs[g]) (entryOfTable data k)
    · rw [extentTable_none range, respond_eq_ended]
    · have whole : ∀ k, k < n → ExtentInRange (lineSize s.configs[g]) (entryOfTable data k) := by
        simpa only [not_exists, not_and, not_not] using range
      rw [extentTable_some whole]
      exact next_congr ((if_pos (bad.resolve_left range)).trans (respond_eq_ended _ _ _ _ s))
  · rw [extentTable_some ok]
    have fits {a b : State} : (if Config.maxSupplied < supplied + totalLines (entriesOfTable data n) then a else b) = b :=
      if_neg (Nat.not_lt.mpr room)
    refine ⟨fun dead => ?_, fun c j carries => ⟨fun ended => ?_, fun live => ?_⟩⟩
    · refine next_congr (fits.trans ?_)
      rw [findTag_of_not_live dead, respond_eq_ended]
    · refine next_congr (fits.trans ?_)
      rw [findTag_of_carries carries]
      simp only [carries.1, notEnded_eq_false ended]
      exact respond_eq_ended _ _ _ _ s
    · obtain ⟨k, tested, applied⟩ := applyAppend_spec (entriesOfTable data n) carries.1
      refine ⟨k, tested, next_congr (fits.trans ?_)⟩
      rw [findTag_of_carries carries]
      simp only [carries.1, notEnded_of_not_isEnded live, if_true]
      rw [applied, respond_eq_ended]

end Sys2Proof.Machine
end

section
/-! SUPPORT. Proofs/LineClocks.lean: triggers, periods, countdowns, and a line event on its way along the followers (O17 to O22). -/

namespace Sys2Proof.Machine

open Sys2Proof Sys2Proof.Claims

/-! ## Triggers (R56, R57, R60) -/

theorem byteEdge_rising_iff (b : Byte) : byteEdge b = some .rising ↔ b = 0 := by
  unfold byteEdge
  split <;> simp <;> bv_omega

theorem byteEdge_falling_iff (b : Byte) : byteEdge b = some .falling ↔ b = 1 := by
  unfold byteEdge
  split <;> simp <;> bv_omega

theorem isTrigger_iff (f : GroupFields) (edge : Edge) :
    (hasSource f .external && decide (byteEdge f.edge = some edge)) = true ↔ IsTrigger f edge := by
  rw [Bool.and_eq_true, hasSource_external_iff, decide_eq_true_iff, IsTrigger, and_assoc]
  cases edge
  · simp [byteEdge_rising_iff]
  · simp [byteEdge_falling_iff]

theorem tooFast_iff (s : State) (g : GroupId) : tooFast s g = true ↔ TooSoon s.configs[g] s.groups[g] s.clock.tick := by
  unfold tooFast TooSoon
  cases s.groups[g].lastAccepted with
  | none => simp
  | some t => simp

/-- One measurement of the interval monitor (R60). -/
theorem monitorAfter_measures (interval : Nat) (m : IntervalMonitor) : Measures interval m (monitorAfter interval m) := by
  have low := m.min.isLt
  have high := m.max.isLt
  have x : (BitVec.ofNat 24 (min interval 16777215)).toNat = min interval 16777215 := by
    rw [BitVec.toNat_ofNat]; omega
  refine ⟨x, ?_, ?_, ?_⟩
  · show (if (BitVec.ofNat 24 (min interval 16777215)).toNat < m.min.toNat then BitVec.ofNat 24 (min interval 16777215) else m.min).toNat
      = _
    rw [x]
    split
    · rw [x]; omega
    · omega
  · show (if m.max.toNat < (BitVec.ofNat 24 (min interval 16777215)).toNat then BitVec.ofNat 24 (min interval 16777215) else m.max).toNat
      = _
    rw [x]
    split
    · rw [x]; omega
    · omega
  · show (m.saturated || decide (16777215 < interval)) = true ↔ _
    rw [Bool.or_eq_true, decide_eq_true_iff]

/-- A measurement is determined by the interval and the monitor before it. -/
theorem measures_unique {interval : Nat} {m a b : IntervalMonitor} (h : Measures interval m a) (k : Measures interval m b) : a = b := by
  obtain ⟨last, low, high, saturated⟩ := h
  obtain ⟨last', low', high', saturated'⟩ := k
  obtain ⟨aLast, aMin, aMax, aSat⟩ := a
  obtain ⟨bLast, bMin, bMax, bSat⟩ := b
  have e₁ : aLast = bLast := BitVec.eq_of_toNat_eq (last.trans last'.symm)
  have e₂ : aMin = bMin := BitVec.eq_of_toNat_eq (low.trans low'.symm)
  have e₃ : aMax = bMax := BitVec.eq_of_toNat_eq (high.trans high'.symm)
  have e₄ : aSat = bSat := Bool.eq_iff_iff.mpr (saturated.trans saturated'.symm)
  rw [e₁, e₂, e₃, e₄]

/-- The model's monitor after a trigger is the statements'. -/
theorem measured_eq_monitorAt (tick : Nat) (x : GroupState) : measured tick x = monitorAt tick x := by
  unfold measured monitorAt
  cases x.lastAccepted with
  | none => rfl
  | some t =>
    have low := x.monitor.min.isLt
    have high := x.monitor.max.isLt
    refine measures_unique (monitorAfter_measures (tick - t) x.monitor) ⟨?_, ?_, ?_, ?_⟩
    · show (BitVec.ofNat 24 _).toNat = _
      rw [BitVec.toNat_ofNat]; omega
    · show (BitVec.ofNat 24 _).toNat = _
      rw [BitVec.toNat_ofNat]; omega
    · show (BitVec.ofNat 24 _).toNat = _
      rw [BitVec.toNat_ofNat]; omega
    · show (x.monitor.saturated || decide (16777215 < tick - t)) = true ↔ _
      rw [Bool.or_eq_true, decide_eq_true_iff]

/-- A group's record after an accepted trigger, its clock left to the case. -/
def acceptedRecord (tick : Nat) (clock : LineClock) (x : GroupState) : GroupState :=
  { x with
    clock := clock
    lastAccepted := some tick
    counters := { x.counters with trigAccepted := counted x.counters.trigAccepted }
    monitor := monitorAt tick x }

theorem acceptedRecord_accepted (tick : Nat) (clock : LineClock) (x : GroupState) : Accepted tick clock x (acceptedRecord tick clock x) := by
  refine ⟨monitorAt tick x, rfl, fun none => ?_, fun t last => ?_⟩
  · simp only [monitorAt, none]
  · rw [← measured_eq_monitorAt]
    simp only [measured, last]
    exact monitorAfter_measures _ _

theorem acceptTrigger_eq (g : GroupId) (s : State) :
    acceptTrigger g s = withGroup g (acceptedRecord s.clock.tick
      (if s.configs[g].delay = 0 then s.groups[g].clock else .delaying (s.clock.tick + s.configs[g].delay.toNat)) s.groups[g]) s := by
  rw [acceptedRecord, ← measured_eq_monitorAt, ← satInc_eq_counted]
  rfl

/-- A group's record after a trigger dropped as busy. -/
def busyRecord (x : GroupState) : GroupState := { x with counters := { x.counters with trigBusy := counted x.counters.trigBusy } }

theorem countBusy_eq (g : GroupId) (s : State) : countBusy g s = withGroup g (busyRecord s.groups[g]) s := by
  rw [busyRecord, ← satInc_eq_counted]
  rfl

theorem countFast_eq (g : GroupId) (s : State) : countFast g s = withGroup g { s.groups[g] with
    counters := { s.groups[g].counters with trigFast := counted s.groups[g].counters.trigFast } } s := by
  rw [← satInc_eq_counted]
  rfl

/-- A trigger runs in the tick in which it is seen. -/
theorem exec_trigger (s : State) (g : GroupId) (edge : Edge) (tick : Nat) : ∃ u, AtTick tick s u ∧ u.configs = s.configs ∧
    u.groups = s.groups ∧ (IsTrigger s.configs[g] edge → exec (.trigger g edge tick) s = .next (seeTrigger g u)) ∧
    (¬ IsTrigger s.configs[g] edge → exec (.trigger g edge tick) s = .next u) := by
  have at_ := toTick_spec tick s
  have frame := eq_of_clock at_.1
  have configs : (toTick tick s).configs = s.configs := by rw [frame]
  have groups : (toTick tick s).groups = s.groups := by rw [frame]
  refine ⟨toTick tick s, at_, configs, groups, fun yes => next_congr (if_pos ?_), fun no => next_congr (if_neg ?_)⟩
  · rw [configs]; exact (isTrigger_iff _ _).mpr yes
  · rw [configs]; exact fun k => no ((isTrigger_iff _ _).mp k)

/-- Settles O17. -/
theorem triggersDroppedAreOnlyCounted : Obligations.TriggersDroppedAreOnlyCounted := by
  intro s g edge tick
  obtain ⟨u, at_, configs, groups, seen, unseen⟩ := exec_trigger s g edge tick
  refine ⟨u, at_, unseen, fun edgeless idle => ?_, fun yes delaying => ?_, fun yes waits soon => ?_⟩
  · by_cases yes : IsTrigger s.configs[g] edge
    · rw [seen yes]
      refine next_congr ?_
      unfold seeTrigger
      rw [groups]
      split
      · exact absurd ‹_› (idle _)
      · exact absurd ‹_› edgeless
      all_goals rfl
    · exact unseen yes
  · obtain ⟨due, delaying⟩ := delaying
    rw [seen yes]
    refine next_congr ?_
    rw [seeTrigger, groups, delaying, ← groups]
    exact countBusy_eq g u
  · rw [← configs, ← groups] at soon
    rw [seen yes]
    refine next_congr ?_
    rw [seeTrigger, groups, waits, ← groups]
    exact (if_pos ((tooFast_iff u g).mpr soon)).trans (countFast_eq g u)

/-- Settles O18. -/
theorem triggerAcceptedStartsCountdown : Obligations.TriggerAcceptedStartsCountdown := by
  intro s g edge tick yes waits notSoon
  obtain ⟨u, at_, configs, groups, seen, -⟩ := exec_trigger s g edge tick
  rw [← at_.2.1, ← configs, ← groups, ← tooFast_iff] at notSoon
  have taken : exec (.trigger g edge tick) s =
      .next (if s.configs[g].delay = 0 then produceLineEvent g (acceptTrigger g u) else acceptTrigger g u) := by
    rw [seen yes]
    refine next_congr ?_
    rw [seeTrigger, groups, waits, ← configs]
    exact if_neg notSoon
  refine ⟨u, acceptedRecord u.clock.tick
    (if s.configs[g].delay = 0 then .waitEdge else .delaying (u.clock.tick + s.configs[g].delay.toNat)) s.groups[g], at_,
    fun delay => ?_, fun none => ?_⟩
  · rw [taken, if_neg delay, if_neg delay]
    refine ⟨acceptedRecord_accepted _ _ _, next_congr ?_⟩
    rw [acceptTrigger_eq, configs, groups, if_neg delay]
  · rw [taken, if_pos none, if_pos none]
    refine ⟨acceptedRecord_accepted _ _ _, next_congr ?_⟩
    rw [acceptTrigger_eq, configs, groups, if_pos none, waits]

/-! ## What a line event leaves of a group it does not reach (R58, R59) -/

/-- The group's trigger side and LINE_EVENTS are the same. -/
def Unreached (h : GroupId) (s t : State) : Prop :=
  SameTriggers s.groups[h] t.groups[h] ∧ t.groups[h].counters.lineEvents = s.groups[h].counters.lineEvents

theorem Unreached.refl (h : GroupId) (s : State) : Unreached h s s := ⟨⟨rfl, rfl, rfl, rfl, rfl, rfl⟩, rfl⟩

theorem sameTriggers_trans {x y z : GroupState} (h : SameTriggers x y) (k : SameTriggers y z) : SameTriggers x z := by
  obtain ⟨a, b, c, d, e, f⟩ := h
  obtain ⟨a', b', c', d', e', f'⟩ := k
  exact ⟨a'.trans a, b'.trans b, c'.trans c, d'.trans d, e'.trans e, f'.trans f⟩

theorem Unreached.trans {h : GroupId} {s t u : State} (a : Unreached h s t) (b : Unreached h t u) : Unreached h s u :=
  ⟨sameTriggers_trans a.1 b.1, b.2.trans a.2⟩

theorem GroupKept.sameTriggers {x y : GroupState} (h : GroupKept x y) :
    SameTriggers x y ∧ y.counters.lineEvents = x.counters.lineEvents := by
  obtain ⟨clock, -, last, monitor, events, -, accepted, busy, fast⟩ := h
  exact ⟨⟨clock, last, monitor, accepted, busy, fast⟩, events⟩

theorem Unreached.of_withGroup {h x : GroupId} (y : GroupState) (s : State) (n : h ≠ x) : Unreached h s (withGroup x y s) := by
  have apart : x.val ≠ h.val := fun e => n (Fin.ext e.symm)
  have same : (withGroup x y s).groups[h] = s.groups[h] := by simp [withGroup, apart]
  rw [Unreached, same]
  exact Unreached.refl h s

/-- A group's own event counts in its LINE_EVENTS and leaves its trigger side. -/
theorem ownEvent_self (g : GroupId) (s : State) :
    SameTriggers s.groups[g] (ownEvent g s).groups[g] ∧
      (ownEvent g s).groups[g].counters.lineEvents = counted s.groups[g].counters.lineEvents := by
  obtain ⟨-, free, held⟩ := ownEvent_groups g s
  rw [← satInc_eq_counted]
  by_cases hold : s.groups[g].hold = .none
  · exact (free hold).sameTriggers
  · rw [held hold]
    exact ⟨⟨rfl, rfl, rfl, rfl, rfl, rfl⟩, rfl⟩

theorem ownEvent_unreached {g h : GroupId} (s : State) (n : h ≠ g) : Unreached h s (ownEvent g s) :=
  ((ownEvent_groups g s).1 h n).sameTriggers

/-- A leader's event cannot change this group: its clock takes none, or it is not below the leader. -/
def NotBelow (s : State) (h l : GroupId) : Prop :=
  (s.groups[h].clock ≠ .waitLeader ∧ ∀ due, s.groups[h].clock ≠ .delaying due) ∨ ¬ Relation.TransGen (Follows s.configs) h l

theorem NotBelow.of_same {s t : State} {h l : GroupId} (k : NotBelow s h l) (configs : t.configs = s.configs)
    (clock : t.groups[h].clock = s.groups[h].clock) : NotBelow t h l := by
  unfold NotBelow
  rw [configs, clock]
  exact k

theorem NotBelow.follower {s : State} {h l x : GroupId} (k : NotBelow s h l) (follows : Follows s.configs x l) : NotBelow s h x :=
  k.imp_right fun apart chain => apart (chain.tail follows)

/-- One leader event, at any group, does not reach a group that is not below the leader. -/
theorem leaderEvent_unreached {own : GroupId → State → State} {h : GroupId} (ind : ∀ x t, h ≠ x → NotBelow t h x → Unreached h t (own x t))
    (l x : GroupId) {s : State} (k : NotBelow s h l) : Unreached h s (leaderEvent own l s x) := by
  unfold leaderEvent
  split
  · rename_i follows
    by_cases n : h = x
    · subst n
      rcases k with ⟨idle, notDue⟩ | apart
      · split
        · exact absurd ‹_› idle
        · exact absurd ‹_› (notDue _)
        all_goals exact .refl h s
      · exact absurd (.single (show Follows s.configs h l from follows)) apart
    · split
      · have accepts : Unreached h s (acceptTrigger x s) := by
          rw [acceptTrigger_eq]; exact .of_withGroup _ s n
        split
        · refine accepts.trans (ind x _ n ?_)
          exact (k.follower follows).of_same rfl accepts.1.1
        · exact accepts
      · rw [countBusy_eq]; exact .of_withGroup _ s n
      all_goals exact .refl h s
  · exact .refl h s

theorem leaderEvents_unreached {own : GroupId → State → State} (frame : ∀ f t, LineFrame t (own f t)) {h : GroupId}
    (ind : ∀ x t, h ≠ x → NotBelow t h x → Unreached h t (own x t)) (l : GroupId) (fs : List GroupId) {s : State} (k : NotBelow s h l) : Unreached h s (fs.foldl (leaderEvent own l) s) := by
  induction fs generalizing s with
  | nil => exact .refl h s
  | cons x fs ih =>
    have step := leaderEvent_unreached ind l x k
    exact step.trans (ih (k.of_same (leaderEvent_frame own frame l x s).configs step.1.1))

theorem lineEvent_links (n : Nat) (g : GroupId) (s : State) :
    lineEvent (n + 1) g s = (List.finRange 4).foldl (leaderEvent (fun f t => lineEvent n f t) g) (ownEvent g s) := rfl

/-- A line event does not reach another group that is not below its group. -/
theorem lineEvent_unreached (n : Nat) {h g : GroupId} {s : State} (other : h ≠ g) (k : NotBelow s h g) :
    Unreached h s (lineEvent n g s) := by
  induction n generalizing g s with
  | zero => exact .refl h s
  | succ n ih =>
    have own := ownEvent_unreached s other
    rw [lineEvent_links]
    refine own.trans (leaderEvents_unreached (lineEvent_frame n) (fun x t => ih) g _ ?_)
    exact k.of_same (ownEvent_frame g s).configs own.1.1

/-- The line event of a group that is not below itself is its own event, for its trigger side and LINE_EVENTS. -/
theorem lineEvent_self (n : Nat) {g : GroupId} {s : State} (k : NotBelow s g g) :
    SameTriggers s.groups[g] (lineEvent (n + 1) g s).groups[g] ∧
      (lineEvent (n + 1) g s).groups[g].counters.lineEvents = counted s.groups[g].counters.lineEvents := by
  have own := ownEvent_self g s
  have rest : Unreached g (ownEvent g s) (lineEvent (n + 1) g s) := by
    rw [lineEvent_links]
    exact leaderEvents_unreached (lineEvent_frame n) (fun x t => lineEvent_unreached n) g (List.finRange 4)
      (k.of_same (ownEvent_frame g s).configs own.1.1)
  exact ⟨sameTriggers_trans own.1 rest.1, by rw [rest.2, own.2]⟩

theorem produceLineEvent_self {g : GroupId} {s : State} (k : NotBelow s g g) :
    SameTriggers s.groups[g] (produceLineEvent g s).groups[g] ∧
      (produceLineEvent g s).groups[g].counters.lineEvents = counted s.groups[g].counters.lineEvents := by
  rw [show produceLineEvent g s = lineEvent (3 + 1) g s from rfl]
  exact lineEvent_self 3 k

/-- Without cycles no chain of leaders comes back to its start (R53). -/
theorem not_transGen_self {s : State} (h : LeadersOk s) (g : GroupId) : ¬ Relation.TransGen (Follows s.configs) g g := by
  intro cycle
  obtain ⟨l, follows, chain⟩ := Relation.TransGen.head'_iff.mp cycle
  obtain ⟨m, follows', -, open_⟩ := (leadersOk_iff s).mp h g ((follows_iff_leader _ _ _).mp follows).1
  exact open_ (follows.unique follows' ▸ chain)

/-! ## Periods and countdowns (R55, R57, R58) -/

/-- A group's clock set at a tick, and the line event it then produces: the parts that O19 and O20 share. -/
theorem clockEvent_spec (s : State) (g : GroupId) (tick : Nat) (k : LineClock) :
    ∃ u t, AtTick tick s u ∧ t = produceLineEvent g (withGroup g { s.groups[g] with clock := k } u) ∧
      produceLineEvent g (setClock g k (toTick tick s)) = t ∧
      (NotBelow (withGroup g { s.groups[g] with clock := k } s) g g →
        SameTriggers { s.groups[g] with clock := k } t.groups[g] ∧
          t.groups[g].counters.lineEvents = counted s.groups[g].counters.lineEvents) ∧
      t.clock.tick = max s.clock.tick tick ∧ EventFrame s t := by
  have at_ := toTick_spec tick s
  have whole := eq_of_clock at_.1
  have groups : (toTick tick s).groups = s.groups := by rw [whole]
  have configs : (toTick tick s).configs = s.configs := by rw [whole]
  have set : setClock g k (toTick tick s) = withGroup g { s.groups[g] with clock := k } (toTick tick s) := by
    rw [← groups]; rfl
  obtain ⟨v, written⟩ : ∃ v, v = withGroup g { s.groups[g] with clock := k } (toTick tick s) := ⟨_, rfl⟩
  have record : v.groups[g] = { s.groups[g] with clock := k } := by rw [written]; exact withGroup_get_self g _ _
  have frame := produceLineEvent_frame g v
  obtain ⟨t, produced⟩ : ∃ t, t = produceLineEvent g v := ⟨_, rfl⟩
  rw [← produced] at frame
  refine ⟨toTick tick s, t, at_, by rw [produced, written], by rw [produced, written, set], fun apart => ?_, ?_, ?_⟩
  · have apart' : NotBelow v g g :=
      apart.of_same (by rw [written]; exact configs) (by rw [record, withGroup_get_self])
    have self := produceLineEvent_self apart'
    rwa [record, ← produced] at self
  · rw [frame.clock, written]; exact at_.2.1
  · have start : LineFrame { s with clock := (toTick tick s).clock } v := by
      rw [written, whole]; rfl
    have clock : v.clock = (toTick tick s).clock := by rw [written]; rfl
    rw [EventFrame, frame.clock, clock]
    exact start.trans frame

/-- Settles O19: a COUNTING clock takes no leader's event, so the group's own event is its only one. -/
theorem periodEndBeginsNextPeriod : Obligations.PeriodEndBeginsNextPeriod := by
  refine ⟨fun s g start counting => ?_, fun s g idle => ?_⟩
  · obtain ⟨u, t, at_, result, produced, self, tick, frame⟩ := clockEvent_spec s g (start + s.configs[g].period.toNat)
      (.counting (start + s.configs[g].period.toNat))
    have apart : NotBelow (withGroup g { s.groups[g] with clock := .counting (start + s.configs[g].period.toNat) } s) g g := by
      left
      rw [withGroup_get_self]
      exact ⟨fun e => (nomatch e), fun _ e => (nomatch e)⟩
    obtain ⟨triggers, events⟩ := self apart
    refine ⟨u, t, at_, result, ?_, triggers, events, tick, frame⟩
    rw [← produced]
    simp only [exec, execPeriodEnd, counting]
  · simp only [exec, execPeriodEnd]
    split
    · exact absurd ‹_› (idle _)
    all_goals rfl

theorem waitClock_eq (f : GroupFields) : waitClock f = if f.source = 2 then .waitLeader else .waitEdge := by
  unfold waitClock
  rcases byteSource_cases f.source with ⟨e, k⟩ | ⟨e, k⟩ | ⟨e, k⟩ | ⟨e, k⟩
  · rw [k, e]; rfl
  · rw [k, e]; rfl
  · rw [k, e]; rfl
  · rw [k, if_neg]
    rintro two
    rw [two] at e
    exact absurd e nofun

/-- Settles O20. -/
theorem countdownExpiryReturnsToWaiting : Obligations.CountdownExpiryReturnsToWaiting := by
  refine ⟨fun s g due delaying _ => ?_, fun s g idle => ?_⟩
  · obtain ⟨u, t, at_, result, produced, self, tick, frame⟩ := clockEvent_spec s g due
      (if s.configs[g].source = 2 then .waitLeader else .waitEdge)
    refine ⟨u, t, at_, result, ?_, fun acyclic => self (.inr (not_transGen_self acyclic g)), tick, frame⟩
    rw [← produced, ← waitClock_eq]
    simp only [exec, execCountdownExpiry, delaying]
  · simp only [exec, execCountdownExpiry]
    split
    · exact absurd ‹_› (idle _)
    all_goals rfl

/-! ## How many links a line event needs (R53, R59) -/

/-- Every chain of followers below the group, the group included, has at most so many groups. -/
def ChainsWithin (configs : Vector GroupFields 4) : Nat → GroupId → Prop
  | 0, _ => False
  | n + 1, g => ∀ x, Follows configs x g → ChainsWithin configs n x

/-- One link more than the longest chain changes nothing. -/
theorem lineEvent_succ {n : Nat} {g : GroupId} {s : State} (h : ChainsWithin s.configs n g) :
    lineEvent n g s = lineEvent (n + 1) g s := by
  induction n generalizing g s with
  | zero => exact h.elim
  | succ n ih =>
    have folds (fs : List GroupId) (t : State) (configs : t.configs = s.configs) :
        fs.foldl (leaderEvent (fun f u => lineEvent n f u) g) t = fs.foldl (leaderEvent (fun f u => lineEvent (n + 1) f u) g) t := by
      induction fs generalizing t with
      | nil => rw [List.foldl_nil, List.foldl_nil]
      | cons x fs rest =>
        have step : leaderEvent (fun f u => lineEvent n f u) g t x = leaderEvent (fun f u => lineEvent (n + 1) f u) g t x := by
          by_cases follows : followsDirect t.configs x g = true
          · have same : lineEvent n x (acceptTrigger x t) = lineEvent (n + 1) x (acceptTrigger x t) := by
              refine ih ?_
              show ChainsWithin t.configs n x
              rw [configs] at follows ⊢
              exact h x follows
            simp only [leaderEvent, same]
          · rw [leaderEvent, leaderEvent, if_neg follows, if_neg follows]
        rw [List.foldl_cons, List.foldl_cons, step]
        refine rest _ ?_
        rw [(leaderEvent_frame _ (lineEvent_frame (n + 1)) g x t).configs, configs]
    rw [lineEvent_links, lineEvent_links]
    exact folds (List.finRange 4) _ (ownEvent_frame g s).configs

/-- Without cycles a chain of followers has no more groups than there are below its start. -/
theorem chainsWithin_of_card {s : State} (acyclic : LeadersOk s) {n : Nat} {g : GroupId} (h : (reachers s.configs g 4).card ≤ n) :
    ChainsWithin s.configs n g := by
  induction n generalizing g with
  | zero =>
    have self : g ∈ reachers s.configs g 4 := mem_reachers.mpr ((walkReaches_four_iff _ _ _).mpr .refl)
    have some := Finset.card_pos.mpr ⟨g, self⟩
    omega
  | succ n ih =>
    refine fun x follows => ih ?_
    have below : reachers s.configs x 4 ⊂ reachers s.configs g 4 := by
      refine Finset.ssubset_iff_of_subset (fun y mem => ?_) |>.mpr ⟨g, ?_, fun mem => ?_⟩
      · rw [mem_reachers, walkReaches_four_iff] at mem ⊢
        exact mem.tail follows
      · exact mem_reachers.mpr ((walkReaches_four_iff _ _ _).mpr .refl)
      · rw [mem_reachers, walkReaches_four_iff] at mem
        exact not_transGen_self acyclic g (.tail' mem follows)
    have smaller := Finset.card_lt_card below
    omega

/-- A group that follows another has at most three groups in each chain from it down. -/
theorem chainsWithin_three {s : State} (acyclic : LeadersOk s) {f g : GroupId} (follows : Follows s.configs f g) :
    ChainsWithin s.configs 3 f := by
  refine chainsWithin_of_card acyclic ?_
  have apart : g ∉ reachers s.configs f 4 := fun mem => by
    rw [mem_reachers, walkReaches_four_iff] at mem
    exact not_transGen_self acyclic g (.tail' mem follows)
  have smaller := Finset.card_lt_card (Finset.ssubset_univ_iff.mpr fun all => apart ((Finset.ext_iff.mp all g).mpr (Finset.mem_univ g)))
  rw [Finset.card_univ, Fintype.card_fin] at smaller
  exact Nat.le_of_lt_succ smaller

/-- A leader's event at a follower, in the statements' words. -/
theorem leaderEvent_eq_followerTakes {s t : State} (acyclic : LeadersOk s) {f g : GroupId} (configs : t.configs = s.configs)
    (follows : followsDirect s.configs f g = true) : leaderEvent (fun f t => lineEvent 3 f t) g t f = followerTakes f t := by
  rw [leaderEvent, if_pos (by rw [configs]; exact follows), followerTakes]
  cases clock : t.groups[f].clock with
  | waitLeader =>
    have links : lineEvent 3 f (acceptTrigger f t) = produceLineEvent f (acceptTrigger f t) :=
      lineEvent_succ (by rw [show (acceptTrigger f t).configs = s.configs from configs]; exact chainsWithin_three acyclic follows)
    dsimp only
    rw [links, acceptTrigger_eq, clock]
    split <;> rfl
  | delaying due => exact countBusy_eq f t
  | stopped | counting | waitEdge => rfl

/-- Settles O21. -/
theorem lineEventIsDeliveredOrKept : Obligations.LineEventIsDeliveredOrKept := by
  intro s g
  refine ⟨ownEvent g s, ownEvent_of_free, ownEvent_of_hold, produceLineEvent_of_noFollower, fun acyclic => ?_⟩
  have folds (fs : List GroupId) (t : State) (configs : t.configs = s.configs) :
      fs.foldl (leaderEvent (fun f u => lineEvent 3 f u) g) t =
        fs.foldl (fun t f => if followsDirect s.configs f g = true then followerTakes f t else t) t := by
    induction fs generalizing t with
    | nil => rfl
    | cons x fs ih =>
      have step : leaderEvent (fun f u => lineEvent 3 f u) g t x =
          if followsDirect s.configs x g = true then followerTakes x t else t := by
        split
        · exact leaderEvent_eq_followerTakes acyclic configs ‹_›
        · exact leaderEvent_of_not_follows _ (by rw [configs]; exact Bool.eq_false_iff.mpr ‹_›)
      rw [List.foldl_cons, List.foldl_cons, ← step]
      refine ih _ ?_
      rw [(leaderEvent_frame _ (lineEvent_frame 3) g x t).configs, configs]
  rw [produceLineEvent, lineEvent_links]
  exact folds (List.finRange 4) _ (ownEvent_frame g s).configs

/-! ## A follower (R58, R59, R60) -/

/-- A leader's events at other groups do not reach a group that follows the leader directly. -/
theorem leaderEvents_sibling {s : State} (acyclic : LeadersOk s) {f g : GroupId} (follows : Follows s.configs f g) (fs : List GroupId)
    (others : f ∉ fs) {t : State} (configs : t.configs = s.configs) :
    Unreached f t (fs.foldl (leaderEvent (fun f u => lineEvent 3 f u) g) t) := by
  induction fs generalizing t with
  | nil => exact .refl f t
  | cons x fs ih =>
    obtain ⟨n, rest⟩ := not_or.mp (mt List.mem_cons.mpr others)
    have frame := leaderEvent_frame (fun f u => lineEvent 3 f u) (lineEvent_frame 3) g x t
    refine Unreached.trans ?_ (ih rest (frame.configs.trans configs))
    have apart (below : followsDirect t.configs x g = true) : ¬ Relation.TransGen (Follows s.configs) f x := fun chain => by
      rw [configs] at below
      obtain ⟨l, first, up⟩ := Relation.TransGen.head'_iff.mp chain
      cases follows.unique first
      exact not_transGen_self acyclic g (.tail' up below)
    unfold leaderEvent
    split
    · rename_i below
      split
      · have accepts : Unreached f t (acceptTrigger x t) := by
          rw [acceptTrigger_eq]; exact .of_withGroup _ t n
        split
        · refine accepts.trans (lineEvent_unreached 3 n (.inr ?_))
          rw [show (acceptTrigger x t).configs = s.configs from configs]
          exact apart below
        · exact accepts
      · rw [countBusy_eq]; exact .of_withGroup _ t n
      all_goals exact .refl f t
    · exact .refl f t

/-- What a leader's event does at a follower, by the follower's clock. -/
theorem leaderEvent_self {s : State} (acyclic : LeadersOk s) {f g : GroupId} (follows : Follows s.configs f g) {t : State}
    (frame : LineFrame s t) (unreached : Unreached f s t) {v : State} (taken : leaderEvent (fun f u => lineEvent 3 f u) g t f = v) :
    (s.groups[f].clock = .waitLeader →
      SameTriggers (acceptedRecord s.clock.tick
        (if s.configs[f].delay = 0 then .waitLeader else .delaying (s.clock.tick + s.configs[f].delay.toNat)) s.groups[f]) v.groups[f] ∧
      v.groups[f].counters.lineEvents =
        if s.configs[f].delay = 0 then counted s.groups[f].counters.lineEvents else s.groups[f].counters.lineEvents) ∧
    ((∃ due, s.groups[f].clock = .delaying due) →
      SameTriggers (busyRecord s.groups[f]) v.groups[f] ∧ v.groups[f].counters.lineEvents = s.groups[f].counters.lineEvents) ∧
    (s.groups[f].clock = .stopped → Unreached f s v) := by
  have configs := frame.configs
  obtain ⟨⟨clock, last, monitor, accepted, busy, fast⟩, events⟩ := id unreached
  have follows' : followsDirect t.configs f g = true := by rw [configs]; exact follows
  refine ⟨fun waits => ?_, fun ⟨due, delaying⟩ => ?_, fun stopped => ?_⟩
  · have accepts : SameTriggers (acceptedRecord s.clock.tick
        (if s.configs[f].delay = 0 then .waitLeader else .delaying (s.clock.tick + s.configs[f].delay.toNat)) s.groups[f])
        (acceptTrigger f t).groups[f] ∧ (acceptTrigger f t).groups[f].counters.lineEvents = s.groups[f].counters.lineEvents := by
      rw [acceptTrigger_eq, withGroup_get_self, configs, frame.clock, clock, waits]
      refine ⟨⟨rfl, rfl, ?_, congrArg counted accepted, busy, fast⟩, events⟩
      simp only [acceptedRecord, monitorAt, last, monitor]
    rw [leaderEvent, if_pos follows', clock, waits, configs] at taken
    simp only at taken
    by_cases delay : s.configs[f].delay = 0
    · rw [if_pos delay] at taken
      have self := lineEvent_self 2 (s := acceptTrigger f t) (g := f) (.inr (by
        rw [show (acceptTrigger f t).configs = s.configs from configs]; exact not_transGen_self acyclic f))
      rw [show lineEvent 3 f (acceptTrigger f t) = lineEvent (2 + 1) f (acceptTrigger f t) from rfl] at taken
      rw [taken] at self
      simp only [if_pos delay] at accepts ⊢
      exact ⟨sameTriggers_trans accepts.1 self.1, by rw [self.2, accepts.2]⟩
    · rw [if_neg delay] at taken
      rw [← taken]
      simp only [if_neg delay] at accepts ⊢
      exact accepts
  · rw [leaderEvent, if_pos follows', clock, delaying, countBusy_eq] at taken
    rw [← taken, withGroup_get_self]
    exact ⟨⟨clock, last, monitor, accepted, congrArg counted busy, fast⟩, events⟩
  · rw [leaderEvent, if_pos follows', clock, stopped] at taken
    rw [← taken]
    exact unreached

/-- Settles O22: before and after its own turn no event of the leader reaches the follower. -/
theorem followerTakesLeaderEvent : Obligations.FollowerTakesLeaderEvent := by
  intro s g f acyclic follows
  obtain ⟨before, after, all⟩ := List.append_of_mem (List.mem_finRange f)
  have distinct : (before ++ f :: after).Nodup := all ▸ List.nodup_finRange 4
  obtain ⟨notAfter, notBefore⟩ : f ∉ after ∧ f ∉ before := by
    have moved := List.nodup_middle.mp distinct
    have fresh := (List.nodup_cons.mp moved).1
    rw [List.mem_append, not_or] at fresh
    exact fresh.symm
  have other : f ≠ g := by
    rintro rfl
    exact not_transGen_self acyclic f (.single follows)
  let own := fun f u => lineEvent 3 f u
  let t₁ := before.foldl (leaderEvent own g) (ownEvent g s)
  have ownFrame := ownEvent_frame g s
  have frame : LineFrame s t₁ := ownFrame.trans (LineFrame.foldl _ (fun t x => leaderEvent_frame own (lineEvent_frame 3) g x t) _ _)
  have early : Unreached f s t₁ :=
    (ownEvent_unreached s other).trans (leaderEvents_sibling acyclic follows before notBefore ownFrame.configs)
  have turn := leaderEvent_self acyclic follows frame early rfl
  have late := leaderEvents_sibling acyclic follows after notAfter (t := leaderEvent own g t₁ f)
    ((leaderEvent_frame own (lineEvent_frame 3) g f t₁).configs.trans frame.configs)
  have whole : produceLineEvent g s = after.foldl (leaderEvent own g) (leaderEvent own g t₁ f) := by
    rw [produceLineEvent, lineEvent_links, all, List.foldl_append, List.foldl_cons]
  obtain ⟨waiting, delaying, stopped⟩ := turn
  refine ⟨_, whole, fun waits => ⟨_, acceptedRecord_accepted _ _ _, ?_, ?_⟩, fun due => ?_, fun idle => ?_⟩
  · exact sameTriggers_trans (waiting waits).1 late.1
  · exact late.2.trans (waiting waits).2
  · exact ⟨sameTriggers_trans (delaying due).1 late.1, late.2.trans (delaying due).2⟩
  · exact Unreached.trans (stopped idle) late

end Sys2Proof.Machine
end

section
/-! SUPPORT. Proofs/Queue.lean: no operation of the model reads the queue of waiting commands or changes it (O2): one lemma per
operation that branches or recurses; the others commute with the queue by definition. -/

namespace Sys2Proof.Machine

open Sys2Proof Sys2Proof.Claims

/-! ## Operations that are blind to the queue -/

/-- The part with another queue. -/
def queued (q : List Instr) (s : State) : State := { s with pending := q }

/-- The operation neither reads the queue nor changes it. -/
def Blind (f : State → State) : Prop := ∀ q s, f (queued q s) = queued q (f s)

namespace Blind

theorem id : Blind fun s => s := fun _ _ => rfl

theorem comp {f g : State → State} (hf : Blind f) (hg : Blind g) : Blind fun s => f (g s) :=
  fun q s => (congrArg f (hg q s)).trans (hf q (g s))

/-- A choice by a test that does not read the queue. -/
theorem ite {p : State → Prop} [∀ s, Decidable (p s)] {f g : State → State} (hp : ∀ q s, p (queued q s) ↔ p s) (hf : Blind f)
    (hg : Blind g) : Blind fun s => if p s then f s else g s := fun q s => by
  dsimp only
  by_cases h : p s
  · rw [if_pos h, if_pos ((hp q s).mpr h), hf]
  · rw [if_neg h, if_neg fun k => h ((hp q s).mp k), hg]

/-- What is done may depend on a value read from the state, the queue aside. -/
theorem read {α : Type} (v : State → α) {f : α → State → State} (hv : ∀ q s, v (queued q s) = v s) (hf : ∀ a, Blind (f a)) :
    Blind fun s => f (v s) s := fun q s => by
  dsimp only
  rw [hv, hf]

theorem foldl {β : Type} {f : State → β → State} (h : ∀ b, Blind fun s => f s b) (l : List β) : Blind fun s => l.foldl f s := by
  induction l with
  | nil => exact id
  | cons b l ih => exact fun q s => (congrArg (fun t => l.foldl f t) (h b q s)).trans (ih q (f s b))

end Blind

/-! ## Time, interrupt, holding list -/

theorem toTick_blind (t : Nat) : Blind (toTick t) := .ite (fun _ _ => .rfl) (fun _ _ => rfl) .id

theorem toMoment_blind (m : Nat) : Blind (toMoment m) := .ite (fun _ _ => .rfl) (fun _ _ => rfl) .id

theorem evalInterrupt_blind : Blind evalInterrupt := .ite (fun _ _ => .rfl) (fun _ _ => rfl) fun _ _ => rfl

theorem handFault_blind (kind : FaultKinds) (ring : FaultRing) (index : Short) : Blind (handFault kind ring index) :=
  .ite (fun _ _ => .rfl) .id (evalInterrupt_blind.comp fun _ _ => rfl)

theorem offerNotice_blind (c : CtxId) (r : CompRecord) : Blind (offerNotice c r) :=
  .ite (fun _ _ => .rfl) (fun _ _ => rfl) fun _ _ => rfl

theorem placeJobEnd_blind : Blind placeJobEnd := fun q s => by
  unfold placeJobEnd
  rw [show (queued q s).endQueue = s.endQueue from rfl, show (queued q s).jobs = s.jobs from rfl,
    show unreservedFree (queued q s) = unreservedFree s from rfl]
  cases s.endQueue with
  | nil => rfl
  | cons c rest =>
    dsimp only
    split
    · cases s.jobs[c] with
      | none => rfl
      | some j =>
        dsimp only
        cases endStatusOf j.state <;> rfl
    · rfl

theorem placeDrain_blind : Blind placeDrain := fun q s => by
  unfold placeDrain
  rw [show (queued q s).eligible = s.eligible from rfl, show (queued q s).groups = s.groups from rfl,
    show unreservedFree (queued q s) = unreservedFree s from rfl]
  cases s.eligible with
  | nil => rfl
  | cons g rest =>
    dsimp only
    split
    · cases s.groups[g].waiters <;> rfl
    · rfl

theorem settleOffers_blind (n : Nat) : Blind (settleOffers n) := by
  induction n with
  | zero => exact .id
  | succ n ih =>
    exact .ite (fun _ _ => .rfl)
      (.ite (fun _ _ => .rfl) (ih.comp placeJobEnd_blind) (.ite (fun _ _ => .rfl) (ih.comp placeDrain_blind) .id)) .id

/-! ## Slots, grants, the end of a job -/

theorem armTest_blind (c : CtxId) : Blind (armTest c) := fun q s => by
  unfold armTest
  rw [show (queued q s).jobs = s.jobs from rfl]
  cases s.jobs[c] with
  | none => rfl
  | some j => exact Blind.ite (p := fun s => j.state = .primed ∧ armed s c j = true) (fun _ _ => .rfl) (fun _ _ => rfl) .id q s

theorem assignRing_blind (c : CtxId) (k : Nat) (is : List SlotId) : Blind (assignRing c k is) := fun q s => by
  induction is generalizing k s with
  | nil => rfl
  | cons i is ih => exact ih (k + 1) (setSlot i (.empty c k) s)

theorem grantTo_blind (c : CtxId) (depth : Nat) (rest : List CtxId) : Blind (grantTo c depth rest) := fun q s => by
  unfold grantTo
  rw [show freeSlots (queued q s) = freeSlots s from rfl, assignRing_blind]
  exact armTest_blind c q (setJobState c .primed (setWait rest (assignRing c 0 ((freeSlots s).take depth) s)))

theorem grantLoop_blind (n : Nat) : Blind (grantLoop n) := by
  induction n with
  | zero => exact .id
  | succ n ih =>
    intro q s
    unfold grantLoop
    rw [show (queued q s).slotWait = s.slotWait from rfl, show (queued q s).jobs = s.jobs from rfl]
    cases s.slotWait with
    | nil => rfl
    | cons c rest =>
      dsimp only
      cases s.jobs[c] with
      | none => rfl
      | some j => exact Blind.ite (p := fun s => j.depth ≤ freeCount s) (fun _ _ => .rfl) (ih.comp (grantTo_blind c j.depth rest)) .id q s

theorem grant_blind : Blind grant := fun q s => grantLoop_blind s.slotWait.length q s

theorem moveUp_blind (g : GroupId) : Blind (moveUp g) := fun q s => by
  unfold moveUp
  rw [show (queued q s).lists = s.lists from rfl]
  cases s.lists[g][1]? with
  | none => rfl
  | some d => exact Blind.ite (p := fun s => jobStateOf s d = some .pending) (fun _ _ => .rfl) (fun _ _ => rfl) .id q s

theorem leaveList_blind (c : CtxId) (g : GroupId) : Blind (leaveList c g) :=
  .ite (fun _ _ => .rfl) (fun _ _ => rfl) ((moveUp_blind g).comp fun _ _ => rfl)

theorem endJob_blind (c : CtxId) (st : EndStatus) : Blind (endJob c st) := fun q s => by
  unfold endJob
  rw [show (queued q s).jobs = s.jobs from rfl]
  cases s.jobs[c] with
  | none => rfl
  | some j =>
    have queue : Blind (queueEnd c) := fun _ _ => rfl
    have ending : Blind fun s => releaseRing c (leaveWait c (markEnded c st s)) := fun _ _ => rfl
    exact ((settleOffers_blind _).comp (grant_blind.comp (queue.comp ((leaveList_blind c j.group).comp ending)))) q s

/-! ## Settling lines -/

theorem retireHead_blind (c : CtxId) (e : Extent) (rest : List Extent) : Blind (retireHead c e rest) := fun q s => by
  unfold retireHead
  rw [show (queued q s).jobs = s.jobs from rfl]
  cases s.jobs[c] with
  | none => rfl
  | some j =>
    have retired : Blind (modJob c fun j => { j with extents := rest, retired := j.retired + 1 }) := fun _ _ => rfl
    exact Blind.ite (p := fun _ => e.notify = true) (fun _ _ => .rfl) ((offerNotice_blind c _).comp retired) retired q s

theorem retireFrom_blind (c : CtxId) (es : List Extent) : Blind (retireFrom c es) := by
  induction es with
  | nil => exact .id
  | cons e es ih =>
    exact .ite (p := fun _ => e.settled = e.lines.toNat) (fun _ _ => .rfl) (ih.comp (retireHead_blind c e es)) .id

theorem settleLine_blind (c : CtxId) (n : Nat) : Blind (settleLine c n) := fun q s => by
  unfold settleLine
  rw [show (queued q s).jobs = s.jobs from rfl]
  cases s.jobs[c] with
  | none => rfl
  | some j =>
    have settled (es : List Extent) : Blind (modJob c fun j => { j with extents := es }) := fun _ _ => rfl
    exact ((retireFrom_blind c _).comp (settled _)) q s

/-! ## Line events -/

theorem latchProfile_blind (g : GroupId) (p : ProfileId) : Blind (latchProfile g p) :=
  .ite (fun _ _ => .rfl) .id fun _ _ => rfl

theorem markTest_blind (c : CtxId) : Blind (markTest c) := fun q s => by
  unfold markTest
  rw [show (queued q s).jobs = s.jobs from rfl]
  cases s.jobs[c] with
  | none => rfl
  | some j =>
    exact Blind.ite (p := fun _ => j.markEvery ≠ 0 ∧ j.linesFired.toNat % j.markEvery.toNat = 0) (fun _ _ => .rfl)
      (offerNotice_blind c _) .id q s

theorem lastLineTest_blind (c : CtxId) (n : Nat) : Blind (lastLineTest c n) := fun q s => by
  unfold lastLineTest
  rw [show (queued q s).jobs = s.jobs from rfl]
  cases s.jobs[c] with
  | none => rfl
  | some j =>
    exact Blind.ite (p := fun _ => j.isOpen = false ∧ j.firePos = j.supplied) (fun _ _ => .rfl)
      (.ite (p := fun _ => n = 0) (fun _ _ => .rfl) (endJob_blind c .ended) fun _ _ => rfl) .id q s

theorem fireLine_blind (g : GroupId) (c : CtxId) (j : Job) (i : SlotId) : Blind (fireLine g c j i) := fun q s => by
  unfold fireLine
  extract_lets s1 s2 t1 t2
  have first : s1 = queued q t1 := latchProfile_blind g j.profile q (setSlot i (.firing c (j.firePos % j.depth) j.firePos) s)
  have second : s2 = queued q t2 := by
    show modJob c _ (formPulses g c i s1) = _
    rw [first]
    rfl
  rw [second, markTest_blind, lastLineTest_blind, first]
  rfl

theorem skipEndTest_blind (c : CtxId) : Blind (skipEndTest c) := fun q s => by
  unfold skipEndTest
  rw [show (queued q s).jobs = s.jobs from rfl]
  cases s.jobs[c] with
  | none => rfl
  | some j =>
    exact Blind.ite (p := fun _ => j.isOpen = false ∧ j.firePos = j.supplied) (fun _ _ => .rfl) (endJob_blind c .ended) .id q s

theorem skipSlot_blind (c : CtxId) (line : Nat) (slot : Option SlotId) : Blind (skipSlot c line slot) := fun q s => by
  have passes : Blind (modJob c fun j => { j with cursor := max j.cursor (line + 1) }) := fun _ _ => rfl
  have settles := (settleLine_blind c line).comp passes q s
  unfold skipSlot
  cases slot with
  | none => exact settles
  | some i =>
    rw [show (queued q s).slots = s.slots from rfl]
    dsimp only
    cases s.slots[i].state
    case filling => rfl
    all_goals exact settles

theorem underrun_blind (c : CtxId) (j : Job) (slot : Option SlotId) : Blind (underrun c j slot) := fun q s => by
  have held : Blind (chargeHeld c) := fun _ _ => rfl
  have skipped : Blind (chargeSkip c) := fun _ _ => rfl
  unfold underrun
  cases j.policy with
  | skip =>
    exact Blind.ite (p := fun _ => j.firePos < j.supplied) (fun _ _ => .rfl)
      ((skipEndTest_blind c).comp (skipped.comp (skipSlot_blind c j.firePos slot))) held q s
  | hold => rfl
  | stop => exact endJob_blind c .underrun q s

theorem runLine_blind (g : GroupId) (c : CtxId) (j : Job) : Blind (runLine g c j) := fun q s => by
  unfold runLine
  rw [show slotAt (queued q s) c (j.firePos % j.depth) = slotAt s c (j.firePos % j.depth) from rfl]
  cases slotAt s c (j.firePos % j.depth) with
  | none => exact underrun_blind c j none q s
  | some i =>
    exact Blind.ite (p := fun s => slotReady s.slots[i].state = true) (fun _ _ => .rfl) (fireLine_blind g c j i)
      (underrun_blind c j (some i)) q s

theorem actOnFront_blind (g : GroupId) : Blind (actOnFront g) := fun q s => by
  unfold actOnFront
  rw [show frontJob (queued q s) g = frontJob s g from rfl]
  cases frontJob s g with
  | none => rfl
  | some x =>
    obtain ⟨c, j⟩ := x
    have released : Blind (releaseFiring c) := fun _ _ => rfl
    dsimp only
    cases j.state
    case running => exact ((runLine_blind g c j).comp released) q s
    case finishing => exact ((endJob_blind c .ended).comp released) q s
    all_goals rfl

theorem startFiring_blind (g : GroupId) (c : CtxId) (j : Job) : Blind (startFiring g c j) :=
  have started : Blind (setJobState c .running) := fun _ _ => rfl
  (runLine_blind g c { j with state := .running }).comp started

theorem deliver_blind (g : GroupId) : Blind (deliver g) := fun q s => by
  have cut : Blind (cutCounted g) := fun _ _ => rfl
  unfold deliver
  extract_lets t u
  have front : t = queued q u := ((actOnFront_blind g).comp cut) q s
  rw [front, show mayStart g (queued q u) = mayStart g u from rfl]
  cases mayStart g u with
  | none =>
    have idle : Blind (countIdle g) := fun _ _ => rfl
    exact Blind.ite (p := fun _ => listHas s g isRunning = true) (fun _ _ => .rfl) .id idle q u
  | some x => exact startFiring_blind g x.1 x.2 q u

theorem ownEvent_blind (g : GroupId) : Blind (ownEvent g) := fun q s => by
  unfold ownEvent
  extract_lets t u
  have counted : t = queued q u := rfl
  rw [counted, show (queued q u).groups = u.groups from rfl]
  cases u.groups[g].hold with
  | none => exact deliver_blind g q u
  | pending => rfl
  | held => rfl

theorem leaderEvent_blind {own : GroupId → State → State} (h : ∀ f, Blind (own f)) (l f : GroupId) :
    Blind fun s => leaderEvent own l s f := fun q s => by
  have accepts : Blind (acceptTrigger f) := fun _ _ => rfl
  show leaderEvent own l (queued q s) f = queued q (leaderEvent own l s f)
  unfold leaderEvent
  rw [show (queued q s).configs = s.configs from rfl, show (queued q s).groups = s.groups from rfl]
  split
  · cases s.groups[f].clock
    case waitLeader =>
      exact Blind.ite (p := fun s => s.configs[f].delay = 0) (fun _ _ => .rfl) ((h f).comp accepts) accepts q s
    all_goals rfl
  · rfl

theorem lineEvent_blind (n : Nat) (g : GroupId) : Blind (lineEvent n g) := by
  induction n generalizing g with
  | zero => exact .id
  | succ n ih => exact (Blind.foldl (fun f => leaderEvent_blind (fun f => ih f) g f) (List.finRange 4)).comp (ownEvent_blind g)

theorem produceLineEvent_blind (g : GroupId) : Blind (produceLineEvent g) := lineEvent_blind 4 g

/-! ## The Command Processor -/

theorem ringIndexFault_blind (r : SubRing) : Blind (ringIndexFault r) := fun q s =>
  congrArg stopTaking (handFault_blind kindRingIndex (subRingFault r) (ringRegs s.cp r).producer q s)

theorem ringReadFault_blind (r : SubRing) : Blind (ringReadFault r) := fun q s =>
  congrArg stopTaking (handFault_blind kindRingRead (subRingFault r) (ringRegs s.cp r).consumer q s)

theorem takeDecision_blind : Blind takeDecision := by
  refine .ite (fun _ _ => .rfl) (.ite (fun _ _ => .rfl) (ringIndexFault_blind .priority)
    (.ite (fun _ _ => .rfl) (ringIndexFault_blind .normal) fun q s => ?_)) .id
  rw [show (queued q s).cp = s.cp from rfl]
  cases chooseRing s.cp <;> rfl

theorem enterLooking_blind : Blind enterLooking := takeDecision_blind.comp fun _ _ => rfl

theorem takeReservation_blind : Blind takeReservation :=
  .ite (fun _ _ => .rfl) (enterLooking_blind.comp fun _ _ => rfl) .id

theorem leaveStopped_blind : Blind leaveStopped :=
  .ite (fun _ _ => .rfl) (.ite (fun _ _ => .rfl) enterLooking_blind fun _ _ => rfl) .id

theorem respond_blind (r : SubRing) (id : Short) (status : Status) (value : Word) : Blind (respond r id status value) := fun _ _ => rfl

theorem endParked_blind (r : SubRing) : Blind (endParked r) := by
  have used : Blind (modCp (consumed r)) := fun _ _ => rfl
  exact (Blind.ite (p := fun t => t.run = true) (fun _ _ => .rfl) enterLooking_blind fun _ _ => rfl).comp used

theorem onRecord_blind {f : SubRing → State → State} (h : ∀ r, Blind (f r)) : Blind (onRecord f) := fun q s => by
  unfold onRecord
  rw [show (queued q s).cp = s.cp from rfl]
  cases s.cp.state
  case record r e => exact Blind.ite (p := fun s => s.clock.now ≤ e) (fun _ _ => .rfl) (h r) .id q s
  all_goals rfl

theorem createJob_blind (c : CtxId) (tag : Word) (p : JobParams) (es : List Extent) : Blind (createJob c tag p es) :=
  .ite (fun _ _ => .rfl) (grant_blind.comp fun _ _ => rfl) fun _ _ => rfl

theorem withJob_blind (r : SubRing) (id : Short) (tag : Word) {f : CtxId → Job → State → State} (h : ∀ c j, Blind (f c j)) :
    Blind (withJob r id tag f) := fun q s => by
  unfold withJob
  rw [show findTag (queued q s) tag = findTag s tag from rfl, show (queued q s).jobs = s.jobs from rfl]
  cases findTag s tag with
  | none => rfl
  | some c =>
    dsimp only
    cases s.jobs[c] with
    | none => rfl
    | some j => exact Blind.ite (p := fun _ => notEnded j = true) (fun _ _ => .rfl) (h c j) (fun _ _ => rfl) q s

theorem applyAppend_blind (c : CtxId) (es : List Extent) : Blind (applyAppend c es) := (armTest_blind c).comp fun _ _ => rfl

theorem applyClose_blind (c : CtxId) (j : Job) : Blind (applyClose c j) := fun q s => by
  have closed : Blind (modJob c fun j => { j with isOpen := false }) := fun _ _ => rfl
  have finished : Blind fun s => setJobState c .finishing (modJob c (fun j => { j with isOpen := false }) s) := fun _ _ => rfl
  have ended := (endJob_blind c .ended).comp closed
  have all (p : Prop) [Decidable p] {f : State → State} (h : Blind f) :=
    Blind.ite (p := fun _ => p) (fun _ _ => .rfl) h closed q s
  unfold applyClose
  cases j.state
  case pending | waiting | primed => exact all _ ended
  case running =>
    exact all _ (Blind.ite (p := fun s => outstanding (modJob c (fun j => { j with isOpen := false }) s) j.group = 0)
      (fun _ _ => .rfl) ended finished)
  all_goals rfl

theorem cutUncounted_blind (j : Job) : Blind (cutUncounted j) :=
  .ite (p := fun _ => isFiringState j.state = true) (fun _ _ => .rfl) (fun _ _ => rfl) .id

theorem applyAbort_blind (c : CtxId) (j : Job) : Blind (applyAbort c j) := (endJob_blind c .aborted).comp (cutUncounted_blind j)

theorem fetchFault_blind (c : CtxId) (n : Nat) : Blind (fetchFault c n) := fun q s => by
  unfold fetchFault
  rw [show (queued q s).jobs = s.jobs from rfl]
  cases s.jobs[c] with
  | none => exact grant_blind q s
  | some j =>
    exact Blind.ite (p := fun _ => notEnded j = true) (fun _ _ => .rfl) ((endJob_blind c _).comp (cutUncounted_blind j)) grant_blind q s

theorem applyTable_blind (r : SubRing) (a : AuxCommand) (data : List Byte) : Blind (applyTable r a data) := fun q s => by
  unfold applyTable
  cases a with
  | configLanes id first count => dsimp only; cases laneTable data count.toNat <;> rfl
  | loadProfile id p => dsimp only; cases profileTable data <;> rfl
  | startJob id tag p =>
    dsimp only
    rw [show (queued q s).configs = s.configs from rfl, show freeContext (queued q s) = freeContext s from rfl]
    cases extentTable (lineSize s.configs[p.group]) data p.extentCount with
    | none => rfl
    | some extents =>
      dsimp only
      cases freeContext s with
      | none => rfl
      | some c => exact ((respond_blind r id .ok _).comp (createJob_blind c tag p extents)) q s
  | appendLines id tag g supplied n =>
    dsimp only
    rw [show (queued q s).configs = s.configs from rfl, show findTag (queued q s) tag = findTag s tag from rfl,
      show (queued q s).jobs = s.jobs from rfl]
    cases extentTable (lineSize s.configs[g]) data n with
    | none => rfl
    | some extents =>
      dsimp only
      split
      · rfl
      · cases findTag s tag with
        | none => rfl
        | some c =>
          dsimp only
          cases s.jobs[c] with
          | none => rfl
          | some j =>
            exact Blind.ite (p := fun _ => notEnded j = true) (fun _ _ => .rfl)
              ((respond_blind r id .ok 0).comp (applyAppend_blind c extents)) (fun _ _ => rfl) q s

/-! ## The commands -/

theorem hostWrite_blind {f : State → State} (h : Blind f) : Blind (hostWrite f) := .ite (fun _ _ => .rfl) .id h

theorem writeRun_blind (v : Bool) : Blind (writeRun v) := by
  have start : Blind startRun := fun q s => by
    unfold startRun
    rw [show invalidRing (queued q s) = invalidRing s from rfl]
    cases invalidRing s with
    | none => exact leaveStopped_blind.comp (g := fun s => { s with run := true }) (fun _ _ => rfl) q s
    | some r => exact handFault_blind kindConfig r 0 q s
  have stop : Blind clearRun :=
    .ite (p := fun s => s.cp.state = .reserving ∨ s.cp.state = .looking) (fun _ _ => .rfl) (fun _ _ => rfl) fun _ _ => rfl
  exact .ite (fun _ _ => .rfl) .id (.ite (p := fun _ => v = true) (fun _ _ => .rfl) (.ite (fun _ _ => .rfl) .id start) stop)

theorem takeEngineReset_blind : Blind takeEngineReset := .ite (fun _ _ => .rfl) (fun _ _ => rfl) fun _ _ => rfl

theorem freeEntry_blind (e : EntryId) : Blind (freeEntry e) := .ite (fun _ _ => .rfl) (fun _ _ => rfl) fun _ _ => rfl

/-- A write that is taken only while BASE and SIZE can be written. -/
theorem ringWrite_blind {f : State → State} (h : Blind f) : Blind (hostWrite fun t => if ringsWritable t then f t else t) :=
  hostWrite_blind (.ite (fun _ _ => .rfl) h .id)

theorem writeConsumer_blind (v : Short) : Blind (writeConsumer v) := by
  have release : Blind fun s => evalInterrupt { s with comp := released s.comp v } :=
    evalInterrupt_blind.comp (g := fun s => { s with comp := released s.comp v }) fun _ _ => rfl
  have fault : Blind fun s => handFault kindCompIndex .completion v (stopPosting s) := (handFault_blind _ _ _).comp fun _ _ => rfl
  exact .ite (fun _ _ => .rfl) .id (.ite (fun _ _ => .rfl) release fault)

theorem seeTrigger_blind (g : GroupId) : Blind (seeTrigger g) := fun q s => by
  have accepts : Blind (acceptTrigger g) := fun _ _ => rfl
  unfold seeTrigger
  rw [show (queued q s).groups = s.groups from rfl]
  cases s.groups[g].clock
  case waitEdge =>
    exact Blind.ite (p := fun s => tooFast s g = true) (fun _ _ => .rfl) (fun _ _ => rfl)
      (.ite (p := fun s => s.configs[g].delay = 0) (fun _ _ => .rfl) ((produceLineEvent_blind g).comp accepts) accepts) q s
  all_goals rfl

theorem reportPulseEnd_blind (g : GroupId) (c : CtxId) : Blind (reportPulseEnd g c) :=
  .ite (fun _ _ => .rfl) (endJob_blind c .ended) .id

theorem issueDecision_blind : Blind issueDecision := fun q s => by
  unfold issueDecision
  rw [show freeTracker (queued q s) = freeTracker s from rfl, show chooseJob (queued q s) = chooseJob s from rfl,
    show (queued q s).jobs = s.jobs from rfl]
  cases freeTracker s with
  | none => rfl
  | some e =>
    cases chooseJob s with
    | none => rfl
    | some c =>
      dsimp only
      rw [show offeredSlot (queued q s) c = offeredSlot s c from rfl]
      cases s.jobs[c] with
      | none => rfl
      | some j => cases offeredSlot s c <;> rfl

theorem fillSlot_blind (i : SlotId) (c : CtxId) (k n : Nat) (data : List Byte) : Blind (fillSlot i c k n data) :=
  (armTest_blind c).comp ((settleLine_blind c n).comp (g := writeSlot i (.ready c k n) data) fun _ _ => rfl)

theorem failRead_blind (e : EntryId) (read : LineRead) : Blind (failRead e read) := fun q s => by
  unfold failRead
  extract_lets t u
  have freed : t = queued q u := freeEntry_blind e q s
  have slotFreed : Blind (setSlot read.slot .free) := fun _ _ => rfl
  rw [freed, show (queued q u).slots = u.slots from rfl]
  split
  · rfl
  · cases u.slots[read.slot].state
    case filling c _ _ => exact (fetchFault_blind c read.line).comp slotFreed q u
    case stale c _ _ => exact (fetchFault_blind c read.line).comp slotFreed q u
    case discard => exact grant_blind.comp slotFreed q u
    all_goals rfl

theorem giveEntry_blind : Blind giveEntry := .ite (fun _ _ => .rfl) (settleOffers_blind _) takeReservation_blind

theorem writeRecord_blind (r : CompRecord) (rest : List CompRecord) : Blind (writeRecord r rest) := by
  have freed : Blind (freeJob r) := fun q s => by cases r <;> rfl
  exact giveEntry_blind.comp (freed.comp (evalInterrupt_blind.comp (g := postRecord r rest) fun _ _ => rfl))

/-- The outcome with another queue. -/
def onQueue (q : List Instr) (x : Result) : Result :=
  match x with
  | .next t => .next (queued q t)
  | .fault r => .fault r
  | .refused r => .refused r

theorem next_blind {f : State → State} (h : Blind f) (q : List Instr) (s : State) :
    (Host.Outcome.next (f (queued q s)) : Result) = onQueue q (.next (f s)) := congrArg _ (h q s)

theorem takeData_blind (e : EntryId) (read : LineRead) (data : List Byte) (q : List Instr) (s : State) :
    takeData e read data (queued q s) = onQueue q (takeData e read data s) := by
  unfold takeData
  extract_lets t u
  have freed : t = queued q u := freeEntry_blind e q s
  rw [freed, show (queued q u).slots = u.slots from rfl]
  split
  · rfl
  · cases u.slots[read.slot].state
    case filling c k n =>
      dsimp only
      rw [show jobLineSize (queued q u) c = jobLineSize u c from rfl]
      split
      · exact next_blind (fillSlot_blind read.slot c k n data) q u
      · rfl
    case stale c k n =>
      have emptied : Blind (setSlot read.slot (.empty c k)) := fun _ _ => rfl
      exact next_blind ((settleLine_blind c n).comp emptied) q u
    case discard =>
      have slotFreed : Blind (setSlot read.slot .free) := fun _ _ => rfl
      exact next_blind (grant_blind.comp slotFreed) q u
    all_goals rfl

theorem holdTaken_blind (id : Short) (target : Word) (after : HoldState → HoldState) (r : SubRing) :
    Blind (holdTaken id target after r) := fun q s => by
  unfold holdTaken
  cases targetGroup target with
  | none => rfl
  | some g =>
    have held : Blind fun s => respond r id .ok 0 (setHold g (after s.groups[g].hold) s) := fun _ _ => rfl
    exact Blind.ite (p := fun s => configured s.configs[g] = true) (fun _ _ => .rfl) held (respond_blind r id .groupOff 0) q s

/-- The records of the Command Reference. -/
theorem execRecord_blind (c : Instr) (record : recordAnswer c = true) (q : List Instr) (s : State) :
    exec c (queued q s) = onQueue q (exec c s) := by
  have taken {f : SubRing → State → State} (h : ∀ r, Blind (f r)) := next_blind (onRecord_blind h) q s
  cases c
  case nop id => exact taken fun r => respond_blind r id .ok 0
  case unknownOpcode opcode id =>
    simp only [exec, execUnknownOpcode]
    split
    · rfl
    · exact taken fun r => respond_blind r id .badField 0
  case configGroup id target f =>
    refine taken fun r q s => ?_
    unfold configGroupTaken
    cases targetGroup target with
    | none => rfl
    | some g =>
      have applied : Blind fun s => respond r id .ok 0 (applyConfigGroup g f s) := fun _ _ => rfl
      have refused : Blind fun s => respond r id (configGroupStatus s g f) 0 s := fun _ _ => rfl
      exact Blind.ite (p := fun s => configGroupStatus s g f = .ok) (fun _ _ => .rfl) applied refused q s
  case configLanes => exact taken fun r => .ite (fun _ _ => .rfl) (fun _ _ => rfl) fun _ _ => rfl
  case loadProfile id profile address =>
    refine taken fun r q s => ?_
    unfold loadProfileTaken
    cases byteProfile profile with
    | none => rfl
    | some p => exact Blind.ite (p := fun _ => aligned4 address = true) (fun _ _ => .rfl) (fun _ _ => rfl) (fun _ _ => rfl) q s
  case startJob id tag f =>
    refine taken fun r q s => ?_
    unfold startJobTaken
    cases jobParams f with
    | none => rfl
    | some p =>
      have atOnce : Blind (startAtOnce id tag p r) := fun q s => by
        unfold startAtOnce
        rw [show freeContext (queued q s) = freeContext s from rfl]
        cases freeContext s with
        | none => rfl
        | some c => exact (respond_blind r id .ok _).comp (createJob_blind c tag p []) q s
      exact Blind.ite (p := fun s => startJobStatus s tag p = .ok) (fun _ _ => .rfl)
        (.ite (p := fun _ => p.extentCount = 0) (fun _ _ => .rfl) atOnce fun _ _ => rfl) (fun _ _ => rfl) q s
  case appendLines id tag count address =>
    refine taken fun r => .ite (p := fun _ => appendFieldsOk count address = true) (fun _ _ => .rfl)
      (withJob_blind r id tag fun c j => ?_) fun _ _ => rfl
    exact .ite (p := fun _ => j.isOpen = false) (fun _ _ => .rfl) (fun _ _ => rfl)
      (.ite (p := fun _ => Config.extentCapacity < j.extents.length + count.toNat) (fun _ _ => .rfl) (fun _ _ => rfl) fun _ _ => rfl)
  case closeJob id tag =>
    exact taken fun r => withJob_blind r id tag fun c j => .ite (p := fun _ => j.isOpen = false) (fun _ _ => .rfl) (fun _ _ => rfl)
      ((respond_blind r id .ok 0).comp (applyClose_blind c j))
  case abortJob id tag => exact taken fun r => withJob_blind r id tag fun c j => (respond_blind r id .ok 0).comp (applyAbort_blind c j)
  case holdGroup id target => exact taken (holdTaken_blind id target afterHold)
  case releaseGroup id target => exact taken (holdTaken_blind id target afterRelease)
  case drainGroup id target =>
    refine taken fun r q s => ?_
    unfold drainTaken
    cases targetGroup target with
    | none => rfl
    | some g =>
      exact Blind.ite (p := fun s => s.lists[g] = []) (fun _ _ => .rfl) (fun _ _ => rfl)
        (.ite (p := fun s => s.groups[g].waiters.length < Config.waiterCapacity) (fun _ _ => .rfl)
          ((endParked_blind r).comp (g := parkWaiter g id) fun _ _ => rfl) fun _ _ => rfl) q s
  case reportGroup id target clear address =>
    refine taken fun r q s => ?_
    unfold reportTaken
    cases targetGroup target with
    | none => rfl
    | some g =>
      refine Blind.ite (p := fun _ => aligned4 address = true)
        (f := fun s => respond r id .ok 0 (if clear then clearCounters g (emit (.memWrite address (reportBytes s g)) s)
          else emit (.memWrite address (reportBytes s g)) s)) (fun _ _ => .rfl) (fun q s => ?_) (fun _ _ => rfl) q s
      cases clear <;> rfl
  all_goals cases record

/-- The host's register writes. -/
theorem execHostWrite_blind (c : Instr) (host : hostWriteCommand c = true) (q : List Instr) (s : State) :
    exec c (queued q s) = onQueue q (exec c s) := by
  have plain {f : State → State} (h : Blind f) := next_blind (hostWrite_blind h) q s
  cases c
  case run v => exact plain (writeRun_blind v)
  case engineReset v =>
    exact plain (.ite (p := fun t => (v && !t.resetting) = true) (fun _ _ => .rfl) takeEngineReset_blind .id)
  case fetchLimit | tickDivider => exact plain fun _ _ => rfl
  case faultClear kinds => exact plain (evalInterrupt_blind.comp (g := fun t => { t with fault := clearedFault t.fault kinds }) fun _ _ => rfl)
  case submissionBase | submissionSize | completionBase => exact next_blind (ringWrite_blind fun _ _ => rfl) q s
  case producer ring v =>
    exact plain (takeDecision_blind.comp (g := modRing ring fun r => { r with producer := v }) fun _ _ => rfl)
  case completionSize v =>
    exact next_blind (ringWrite_blind (evalInterrupt_blind.comp
      (g := fun t => { t with comp := { t.comp with size := v, producer := 0, consumer := 0, lap := true, times := [] } })
      fun _ _ => rfl)) q s
  case consumer v => exact plain (writeConsumer_blind v)
  case intMod threshold age =>
    exact plain (evalInterrupt_blind.comp
      (g := fun t => { t with intMod := { threshold := if threshold = 0 then 1 else threshold, age := age } }) fun _ _ => rfl)
  case registerWrite => rfl
  all_goals cases host

/-- The events: everything but the host's writes and the records. -/
theorem execEvent_blind (c : Instr) (host : hostWriteCommand c = false) (record : recordAnswer c = false) (q : List Instr) (s : State) :
    exec c (queued q s) = onQueue q (exec c s) := by
  cases c
  case deviceReset => rfl
  case deviceResetComplete =>
    simp only [exec, execDeviceResetComplete]
    rw [show (queued q s).inReset = s.inReset from rfl]
    cases s.inReset with
    | none => rfl
    | some fell =>
      have moment := toMoment_blind (fell + periods s Config.deviceResetMicros) q s
      exact congrArg (fun t => Host.Outcome.next (latchDivider { t with inReset := none })) moment
  case trigger g edge tick =>
    have see : Blind fun t => if hasSource t.configs[g] .external && decide (byteEdge t.configs[g].edge = some edge)
        then seeTrigger g t else t := .ite (fun _ _ => .rfl) (seeTrigger_blind g) .id
    exact next_blind (see.comp (toTick_blind tick)) q s
  case periodEnd g =>
    simp only [exec, execPeriodEnd]
    rw [show (queued q s).groups = s.groups from rfl, show (queued q s).configs = s.configs from rfl]
    cases s.groups[g].clock
    case counting start =>
      have set : Blind (setClock g (.counting (start + s.configs[g].period.toNat))) := fun _ _ => rfl
      exact next_blind ((produceLineEvent_blind g).comp (set.comp (toTick_blind (start + s.configs[g].period.toNat)))) q s
    all_goals rfl
  case countdownExpiry g =>
    simp only [exec, execCountdownExpiry]
    rw [show (queued q s).groups = s.groups from rfl, show (queued q s).configs = s.configs from rfl]
    cases s.groups[g].clock
    case delaying due =>
      have set : Blind (setClock g (waitClock s.configs[g])) := fun _ _ => rfl
      exact next_blind ((produceLineEvent_blind g).comp (set.comp (toTick_blind due))) q s
    all_goals rfl
  case pulseStart lane =>
    simp only [exec, execPulseStart]
    rw [show (queued q s).pulses = s.pulses from rfl]
    cases s.pulses[lane]
    case scheduled a b g c =>
      have set : Blind (setPulse lane (.active a b g c)) := fun _ _ => rfl
      exact next_blind (set.comp (toTick_blind a)) q s
    all_goals rfl
  case pulseEnd lane =>
    simp only [exec, execPulseEnd]
    rw [show (queued q s).pulses = s.pulses from rfl]
    cases s.pulses[lane]
    case active a b g c =>
      have set : Blind (setPulse lane .none) := fun _ _ => rfl
      exact next_blind ((reportPulseEnd_blind g c).comp (set.comp (toTick_blind b))) q s
    all_goals rfl
  case slotGrant => exact next_blind grant_blind q s
  case fetchIssue => exact next_blind issueDecision_blind q s
  case fetchDataAnswer e data =>
    simp only [exec, execFetchDataAnswer]
    rw [show (queued q s).tracker = s.tracker from rfl, show (queued q s).clock = s.clock from rfl]
    cases s.tracker[e] with
    | none => rfl
    | some read =>
      dsimp only
      split
      · exact takeData_blind e read data q s
      · rfl
  case fetchErrorAnswer e =>
    simp only [exec, execFetchErrorAnswer]
    rw [show (queued q s).tracker = s.tracker from rfl]
    cases s.tracker[e] with
    | none => rfl
    | some read => exact next_blind (Blind.ite (p := fun s => s.clock.now ≤ read.expiry) (fun _ _ => .rfl) (failRead_blind e read) .id) q s
  case fetchExpiry e =>
    simp only [exec, execFetchExpiry]
    rw [show (queued q s).tracker = s.tracker from rfl]
    cases s.tracker[e] with
    | none => rfl
    | some read =>
      have late : Blind (expired read) := fun q s => by rw [expired, toMoment_blind]; rfl
      exact next_blind ((failRead_blind e read).comp late) q s
  case lateAnswer => rfl
  case reservation => exact next_blind takeReservation_blind q s
  case takeDecision => exact next_blind takeDecision_blind q s
  case recordReadError => exact next_blind (onRecord_blind ringReadFault_blind) q s
  case recordReadExpiry =>
    simp only [exec, execRecordReadExpiry]
    rw [show (queued q s).cp = s.cp from rfl]
    cases s.cp.state
    case record r e =>
      have noted : Blind noteVoidRead := fun _ _ => rfl
      exact next_blind ((ringReadFault_blind r).comp (noted.comp (toMoment_blind e))) q s
    all_goals rfl
  case auxiliaryReadData data =>
    simp only [exec, execAuxiliaryReadData]
    rw [show (queued q s).cp = s.cp from rfl, show (queued q s).clock = s.clock from rfl]
    cases s.cp.state
    case auxiliary r e a =>
      dsimp only
      split
      · split
        · exact next_blind (applyTable_blind r a data) q s
        · rfl
      · rfl
    all_goals rfl
  case auxiliaryReadError =>
    simp only [exec, execAuxiliaryReadError]
    rw [show (queued q s).cp = s.cp from rfl]
    cases s.cp.state
    case auxiliary r e a =>
      exact next_blind (Blind.ite (p := fun s => s.clock.now ≤ e) (fun _ _ => .rfl) (respond_blind r (auxCmdId a) .readFault 0) .id) q s
    all_goals rfl
  case auxiliaryReadExpiry =>
    simp only [exec, execAuxiliaryReadExpiry]
    rw [show (queued q s).cp = s.cp from rfl]
    cases s.cp.state
    case auxiliary r e a =>
      have noted : Blind noteVoidRead := fun _ _ => rfl
      exact next_blind ((respond_blind r (auxCmdId a) .readFault 0).comp (noted.comp (toMoment_blind e))) q s
    all_goals rfl
  case voidReadAnswer => rfl
  case jobEndPlacement => exact next_blind placeJobEnd_blind q s
  case drainResponse => exact next_blind placeDrain_blind q s
  case completionWrite =>
    simp only [exec, execCompletionWrite]
    rw [show (queued q s).holding = s.holding from rfl]
    cases s.holding with
    | nil => rfl
    | cons r rest => exact next_blind (Blind.ite (p := fun s => mayPost s = true) (fun _ _ => .rfl) (writeRecord_blind r rest) .id) q s
  case ageExpiry =>
    simp only [exec, execAgeExpiry]
    rw [show (queued q s).comp = s.comp from rfl]
    cases s.comp.times with
    | nil => rfl
    | cons w rest =>
      exact next_blind (Blind.ite (p := fun s => s.intMod.age = 0) (fun _ _ => .rfl) .id
        (Blind.read (fun s => w + periods s s.intMod.age.toNat) (f := fun m s => evalInterrupt (toMoment m s)) (fun _ _ => rfl)
          fun m => evalInterrupt_blind.comp (toMoment_blind m))) q s
  all_goals contradiction

/-- Settles O2. -/
theorem commandsNeitherReadNorChangeQueue : Obligations.CommandsNeitherReadNorChangeQueue := by
  intro c s q
  have blind : exec c (queued q s) = onQueue q (exec c s) := by
    cases host : hostWriteCommand c with
    | true => exact execHostWrite_blind c host q s
    | false =>
      cases record : recordAnswer c with
      | true => exact execRecord_blind c record q s
      | false => exact execEvent_blind c host record q s
  exact blind

end Sys2Proof.Machine
end

section
/-! SUPPORT. Proofs/Report.lean: the 64 bytes of a group's report, field by field (O49). -/

namespace Sys2Proof.Machine

open Sys2Proof Sys2Proof.Claims

/-! ## Records that end in 32-bit fields -/

theorem byteAt_append {l : List Byte} {n : Nat} (h : l.length = n) (m : List Byte) (i : Nat) : byteAt (l ++ m) (n + i) = byteAt m i := by
  subst h
  rw [byteAt, byteAt, List.getD_append_right _ _ _ _ (Nat.le_add_right _ _), Nat.add_sub_cancel_left]

theorem wordAt_append {l : List Byte} {n : Nat} (h : l.length = n) (m : List Byte) (i : Nat) : wordAt (l ++ m) (n + i) = wordAt m i := by
  simp only [wordAt, shortAt, Nat.add_assoc, byteAt_append h]

theorem wordBytes_length (v : Word) : (wordBytes v).length = 4 := rfl

/-- The field of a run of 32-bit fields, and 0 beyond them where nothing follows. -/
theorem wordAt_words (ws : List Word) (k : Nat) : wordAt (ws.flatMap wordBytes) (4 * k) = ws.getD k 0 := by
  induction ws generalizing k with
  | nil => simp [wordAt, shortAt, byteAt]
  | cons w ws ih =>
    rw [List.flatMap_cons]
    cases k with
    | zero => exact wordAt_wordBytes w _
    | succ k =>
      rw [show 4 * (k + 1) = 4 + 4 * k by omega, wordAt_append (wordBytes_length w), ih]
      rfl

/-! ## The bytes of the report (10.4, R172) -/

/-- Bytes 0 to 7 of a report. -/
def reportHead (s : State) (g : GroupId) : List Byte :=
  [runState s g, s.groups[g].hold.code, BitVec.ofNat 8 s.lists[g].length] ++ latchedBytes s.groups[g].latched
    ++ [flagByte s.groups[g].monitor.saturated, BitVec.ofNat 8 g.val]

/-- The fourteen words of a report from byte 8 on. -/
def reportWords (s : State) (g : GroupId) : List Word :=
  [listTag s g 0, listTag s g 1, listTag s g 2, listTag s g 3, s.groups[g].counters.lineEvents, s.groups[g].counters.idleEvents,
    s.groups[g].counters.heldEvents, s.groups[g].counters.trigAccepted, s.groups[g].counters.trigBusy, s.groups[g].counters.trigFast,
    s.groups[g].monitor.last.setWidth 32, s.groups[g].monitor.min.setWidth 32, s.groups[g].monitor.max.setWidth 32, 0]

section
variable (s : State) (g : GroupId)

theorem reportBytes_eq : reportBytes s g = reportHead s g ++ (reportWords s g).flatMap wordBytes := by
  have last : wordBytes 0 = [0, 0, 0, 0] := rfl
  simp only [reportBytes, reportHead, reportWords, List.flatMap_cons, List.flatMap_nil, List.append_assoc, last, List.append_nil]

theorem reportHead_length : (reportHead s g).length = 8 := by
  unfold reportHead
  cases s.groups[g].latched <;> rfl

theorem reportBytes_length : (reportBytes s g).length = 64 := by
  rw [reportBytes_eq, List.length_append, reportHead_length]
  rfl

theorem reportBytes_byte {k : Nat} (h : k < 8) : byteAt (reportBytes s g) k = byteAt (reportHead s g) k := by
  rw [reportBytes_eq, byteAt, byteAt, List.getD_append _ _ _ _ (by rw [reportHead_length]; exact h)]

theorem reportBytes_word (k : Nat) : wordAt (reportBytes s g) (8 + 4 * k) = (reportWords s g).getD k 0 := by
  rw [reportBytes_eq, wordAt_append (reportHead_length s g), wordAt_words]

theorem reportBytes_state : byteAt (reportBytes s g) 0 = runState s g := reportBytes_byte s g (by omega)

theorem reportBytes_listLength : byteAt (reportBytes s g) 2 = BitVec.ofNat 8 s.lists[g].length := reportBytes_byte s g (by omega)

theorem reportBytes_latchedShort : shortAt (reportBytes s g) 4 = shortAt (reportHead s g) 4 := by
  simp only [shortAt, reportBytes_byte s g (show 4 + 1 < 8 by omega), reportBytes_byte s g (show 4 < 8 by omega)]

theorem reportBytes_unlatched (h : s.groups[g].latched = none) :
    byteAt (reportBytes s g) 3 = 0 ∧ shortAt (reportBytes s g) 4 = 0 := by
  rw [reportBytes_byte s g (by omega), reportBytes_latchedShort, reportHead, h]
  exact ⟨rfl, shortAt_shortBytes 0 []⟩

theorem reportBytes_latched {l : Latched} (h : s.groups[g].latched = some l) :
    (byteAt (reportBytes s g) 3).toNat = 128 + l.number.val ∧ shortAt (reportBytes s g) 4 = l.generation := by
  rw [reportBytes_byte s g (by omega), reportBytes_latchedShort, reportHead, h]
  exact ⟨(BitVec.toNat_ofNat _ _).trans (Nat.mod_eq_of_lt (by omega)), shortAt_shortBytes l.generation []⟩

theorem reportBytes_saturated_number : byteAt (reportBytes s g) 6 = flagByte s.groups[g].monitor.saturated ∧
    (byteAt (reportBytes s g) 7).toNat = g.val := by
  rw [reportBytes_byte s g (by omega), reportBytes_byte s g (by omega), reportHead]
  cases s.groups[g].latched <;> exact ⟨rfl, (BitVec.toNat_ofNat _ _).trans (Nat.mod_eq_of_lt (by omega))⟩

theorem reportBytes_tag {k : Nat} (h : k < 4) : wordAt (reportBytes s g) (8 + 4 * k) = listTag s g k := by
  rw [reportBytes_word]
  match k, h with
  | 0, _ | 1, _ | 2, _ | 3, _ => rfl

end

theorem listTag_some {s : State} {g : GroupId} {k : Nat} {c : CtxId} {j : Job} (h : s.lists[g][k]? = some c) (e : s.jobs[c] = some j) :
    listTag s g k = j.tag := by
  simp only [listTag, h, e]

theorem listTag_none {s : State} {g : GroupId} {k : Nat} (h : s.lists[g][k]? = none) : listTag s g k = 0 := by
  simp only [listTag, h]

/-! ## The run state (R50) -/

theorem listHas_iff {s : State} {g : GroupId} {test : JobState → Bool} :
    listHas s g test = true ↔ ∃ c ∈ s.lists[g], ∃ j, s.jobs[c] = some j ∧ test j.state = true := by
  simp only [listHas, List.any_eq_true, jobStateOf, Option.any_map, Option.any_eq_true]

theorem isFiringState_iff (j : Job) : isFiringState j.state = true ↔ FirstClass j := by
  unfold FirstClass
  cases j.state <;> simp [isFiringState]

theorem runState_busy {s : State} {g : GroupId} (on : s.configs[g].laneCount ≠ 0)
    (fires : ∃ c ∈ s.lists[g], ∃ j, s.jobs[c] = some j ∧ FirstClass j) : runState s g = 2 := by
  obtain ⟨c, listed, j, job, first⟩ := fires
  rw [runState, if_neg on, if_pos (listHas_iff.mpr ⟨c, listed, j, job, (isFiringState_iff j).mpr first⟩)]

theorem runState_idle {s : State} {g : GroupId} (on : s.configs[g].laneCount ≠ 0)
    (idle : ∀ c ∈ s.lists[g], ∀ j, s.jobs[c] = some j → ¬ FirstClass j) : runState s g = 1 := by
  rw [runState, if_neg on, if_neg fun has => ?_]
  obtain ⟨c, listed, j, job, firing⟩ := listHas_iff.mp has
  exact idle c listed j job ((isFiringState_iff j).mp firing)

/-! ## REPORT_GROUP (R70, R146) -/

theorem reportTaken_ok {s : State} {r : SubRing} {g : GroupId} {target : Word} {address : Addr} (id : Short) (clear : Bool)
    (found : target.toNat = g.val) (whole : Aligned address) :
    reportTaken id target clear address r s = respond r id .ok 0
      (if clear then clearCounters g (emit (.memWrite address (reportBytes s g)) s) else emit (.memWrite address (reportBytes s g)) s) := by
  simp only [reportTaken, targetGroup_some found, (aligned4_iff address).mpr whole, if_true]

theorem reportTaken_refused {s : State} {r : SubRing} {target : Word} {address : Addr} (id : Short) (clear : Bool)
    (h : 3 < target.toNat ∨ ¬ Aligned address) : reportTaken id target clear address r s = respond r id .badField 0 s := by
  unfold reportTaken
  cases e : targetGroup target with
  | none => rfl
  | some g =>
    have odd : ¬ Aligned address := h.resolve_left fun out => by rw [targetGroup_none out] at e; cases e
    exact if_neg fun whole => odd ((aligned4_iff address).mp whole)

/-- Settles O49. -/
theorem reportGroupWritesSnapshot : Obligations.ReportGroupWritesSnapshot := by
  intro s r id target clear address read
  refine ⟨fun bad => (next_onRecord _ read).trans (next_congr ((reportTaken_refused id clear bad).trans (respond_eq_ended ..))), ?_⟩
  intro g found whole
  refine ⟨reportBytes s g, ?_, reportBytes_length s g, fun off => ?_, fun on fires => ?_, fun on idle => ?_, ?_, ?_,
    reportBytes_unlatched s g, fun l => reportBytes_latched s g, ?_, (reportBytes_saturated_number s g).2, fun k small => ⟨fun c j at_ job => ?_, fun beyond => ?_⟩,
    reportBytes_word s g 4, reportBytes_word s g 5, reportBytes_word s g 6, reportBytes_word s g 7, reportBytes_word s g 8,
    reportBytes_word s g 9, ?_, ?_, ?_, reportBytes_word s g 13⟩
  · refine (next_onRecord _ read).trans (next_congr ((reportTaken_ok id clear found whole).trans ((respond_eq_ended ..).trans ?_)))
    cases clear with
    | false => rfl
    | true => rfl
  · rw [reportBytes_state]; exact if_pos off
  · rw [reportBytes_state]; exact runState_busy on fires
  · rw [reportBytes_state]; exact runState_idle on idle
  · rw [reportBytes_hold]
    cases s.groups[g].hold <;> rfl
  · rw [reportBytes_listLength]; exact BitVec.toNat_ofNat _ _
  · exact (reportBytes_saturated_number s g).1
  · rw [reportBytes_tag s g small, listTag_some at_ job]
  · rw [reportBytes_tag s g small, listTag_none beyond]
  · exact (congrArg _ (reportBytes_word s g 10)).trans (by simp [reportWords]; omega)
  · exact (congrArg _ (reportBytes_word s g 11)).trans (by simp [reportWords]; omega)
  · exact (congrArg _ (reportBytes_word s g 12)).trans (by simp [reportWords]; omega)

end Sys2Proof.Machine
end

section
/-! SUPPORT. Proofs/Completions.lean: the bytes of a completion record, the placement of waiting offers, and the write of a record to the
completion ring (O50, O51). -/

namespace Sys2Proof.Machine

open Sys2Proof Sys2Proof.Claims

/-! ## Room in the holding list (R152) -/

theorem unreservedFree_iff_room (s : State) : unreservedFree s = true ↔ roomOf s ≠ 0 := by
  rw [unreservedFree_iff, roomOf]
  unfold bit
  omega

theorem unreservedFree_of_room {s : State} (h : roomOf s ≠ 0) : unreservedFree s = true := (unreservedFree_iff_room s).mpr h

theorem unreservedFree_of_full {s : State} (h : roomOf s = 0) : unreservedFree s = false :=
  Bool.eq_false_iff.mpr fun free => (unreservedFree_iff_room s).mp free h

/-- A record placed takes one entry of the room. -/
theorem roomOf_placed {s t : State} {r : CompRecord} (held : t.holding = s.holding ++ [r]) (cp : t.cp = s.cp) :
    roomOf t = roomOf s - 1 := by
  simp only [roomOf, held, cp, List.length_append, List.length_singleton]
  omega

/-! ## The placement of waiting offers (R21, R68, R154) -/

theorem frontReady_iff (x : GroupState) : frontReady x = true ↔ ∃ w ws, x.waiters = w :: ws ∧ w.state = .ready := by
  unfold frontReady
  cases x.waiters with
  | nil => exact iff_of_false nofun nofun
  | cons w ws =>
    simp only [decide_eq_true_eq, List.cons.injEq]
    exact ⟨fun h => ⟨w, ws, ⟨rfl, rfl⟩, h⟩, fun ⟨_, _, ⟨e, _⟩, h⟩ => e ▸ h⟩

/-- The groups that join the order of eligible responses. -/
def newlyEligible (s : State) : List GroupId :=
  (List.finRange 4).filter fun g => frontReady s.groups[g] && !s.eligible.contains g

theorem mem_newlyEligible {s : State} {g : GroupId} :
    g ∈ newlyEligible s ↔ g ∉ s.eligible ∧ ∃ w ws, s.groups[g].waiters = w :: ws ∧ w.state = .ready := by
  simp only [newlyEligible, List.mem_filter, List.mem_finRange, true_and, Bool.and_eq_true, frontReady_iff, Bool.not_eq_true',
    List.contains_eq_mem, decide_eq_false_iff_not]
  exact and_comm

theorem placeJobEnd_none {s : State} (h : roomOf s = 0 ∨ s.endQueue = []) : placeJobEnd s = s := by
  unfold placeJobEnd
  rcases h with full | empty
  · cases s.endQueue with
    | nil => rfl
    | cons c rest => exact if_neg (by rw [unreservedFree_of_full full]; nofun)
  · rw [empty]

theorem placeDrain_none {s : State} (h : roomOf s = 0 ∨ s.eligible = []) : placeDrain s = s := by
  unfold placeDrain
  rcases h with full | empty
  · cases s.eligible with
    | nil => rfl
    | cons g rest => exact if_neg (by rw [unreservedFree_of_full full]; nofun)
  · rw [empty]

/-- Settles O50. -/
theorem waitingOffersArePlaced : Obligations.WaitingOffersArePlaced := by
  refine fun s => ⟨fun h => next_congr (placeJobEnd_none h), fun h => next_congr (placeDrain_none h), fun c rest j st room queue job ended => ?_,
    fun g rest w ws room order waiters => ?_⟩
  · have free := unreservedFree_of_room room
    have placed := placeJobEnd_some free queue job ended
    have frame := (placeJobEnd_offer s).1
    have left : (placeJobEnd s).endQueue = rest := by
      rw [placed]
      simp only [noteEligible_endQueue, readyWaiters_endQueue, setEndQueue_endQueue]
    have held : (placeJobEnd s).holding = s.holding ++ [jobEndRecord c j st] := by
      rw [placed]
      simp only [noteEligible_holding, readyWaiters_holding, setEndQueue_holding, place_holding]
    have groups (g : GroupId) : (placeJobEnd s).groups[g] = { s.groups[g] with waiters := s.groups[g].waiters.map (readyWaiter c) } := by
      rw [placed]
      exact readyWaiters_get c g _
    obtain ⟨more, eligible, joins⟩ : ∃ more, (placeJobEnd s).eligible = s.eligible ++ more ∧
        ∀ g : GroupId, g ∈ more ↔ g ∉ s.eligible ∧ ∃ w ws, (placeJobEnd s).groups[g].waiters = w :: ws ∧ w.state = .ready := by
      rw [placed]
      exact ⟨newlyEligible _, rfl, fun g => mem_newlyEligible⟩
    exact ⟨placeJobEnd s, more, rfl, left, eligible, held, groups, joins, frame⟩
  · have free := unreservedFree_of_room room
    have placed := placeDrain_some free order waiters
    have held : (placeDrain s).holding = s.holding ++ [.response w.cmdId .ok 0] := by rw [placed]; rfl
    have groups : (placeDrain s).groups = s.groups.set g { s.groups[g] with waiters := ws } := by
      rw [placed]
      show s.groups.set g { s.groups[g] with waiters := s.groups[g].waiters.tail } = _
      rw [waiters]
      rfl
    have queue : (placeDrain s).endQueue = s.endQueue := by
      rw [placed]
      simp only [noteEligible_endQueue, setEligible_endQueue, dropWaiter, modGroup_endQueue, place_endQueue]
    obtain ⟨more, eligible, joins⟩ : ∃ more, (placeDrain s).eligible = rest ++ more ∧
        ∀ h : GroupId, h ∈ more ↔ h ∉ rest ∧ ∃ x xs, (placeDrain s).groups[h].waiters = x :: xs ∧ x.state = .ready := by
      rw [placed]
      exact ⟨newlyEligible _, rfl, fun h => mem_newlyEligible⟩
    have frame := (placeDrain_offer s).1
    rw [← queue] at frame
    exact ⟨placeDrain s, more, rfl, eligible, held, groups, joins, frame⟩

/-! ## The bytes of a completion record (10.3, R172) -/

theorem kindByte_fields {k : Nat} (h : k < 4) (lap : Bool) :
    (kindByte k lap).getLsbD 7 = lap ∧ (kindByte k lap).extractLsb' 0 7 = BitVec.ofNat 7 k := by
  match k, h with
  | 0, _ | 1, _ | 2, _ | 3, _ => cases lap <;> exact ⟨rfl, rfl⟩

theorem byteAt_padded {l : List Byte} {n k : Nat} (h : l.length ≤ k) : byteAt (l ++ List.replicate n 0) k = 0 := by
  rw [byteAt, List.getD_append_right _ _ _ _ h]
  exact (List.getD_eq_getElem?_getD ..).trans (List.getElem?_getD_replicate_default_eq ..)

theorem compBytes_length (lap : Bool) (r : CompRecord) : (compBytes lap r).length = 32 := by cases r <;> rfl

theorem compBytes_lap (lap : Bool) (r : CompRecord) : (byteAt (compBytes lap r) 0).getLsbD 7 = lap := by
  cases r
  · exact (kindByte_fields (k := 0) (by omega) lap).1
  · exact (kindByte_fields (k := 1) (by omega) lap).1
  · exact (kindByte_fields (k := 2) (by omega) lap).1
  · exact (kindByte_fields (k := 3) (by omega) lap).1

theorem responseBytes (lap : Bool) (id : Short) (status : Status) (value : Word) :
    (byteAt (compBytes lap (.response id status value)) 0).extractLsb' 0 7 = 0 ∧
    byteAt (compBytes lap (.response id status value)) 1 = statusNumber status ∧
    shortAt (compBytes lap (.response id status value)) 2 = id ∧ wordAt (compBytes lap (.response id status value)) 4 = value ∧
    ∀ k, 8 ≤ k → k < 32 → byteAt (compBytes lap (.response id status value)) k = 0 := by
  refine ⟨(kindByte_fields (k := 0) (by omega) lap).2, ?_, shortAt_shortBytes id [], wordAt_wordBytes value [], fun k low _ => byteAt_padded low⟩
  cases status <;> rfl

/-- The record of a job's end: four bytes, then seven words. -/
theorem jobEndBytes (lap : Bool) (tag : Word) (c : CtxId) (st : EndStatus) (fired skipped held clipped lost : Word) :
    ∃ bytes, compBytes lap (.jobEnd tag c st fired skipped held clipped lost) = bytes ∧
      (byteAt bytes 0).extractLsb' 0 7 = 1 ∧ byteAt bytes 1 = endNumber st ∧ (byteAt bytes 2).toNat = c.val ∧
      byteAt bytes 3 = (match st with | .fetchFault _ => 1 | .ended | .aborted | .underrun => 0) ∧
      wordAt bytes 4 = tag ∧ wordAt bytes 8 = fired ∧ wordAt bytes 12 = skipped ∧ wordAt bytes 16 = held ∧
      wordAt bytes 20 = clipped ∧ wordAt bytes 24 = lost ∧
      wordAt bytes 28 = (match st with | .fetchFault n => BitVec.ofNat 32 n | .ended | .aborted | .underrun => 0) := by
  have split : compBytes lap (.jobEnd tag c st fired skipped held clipped lost) =
      [kindByte 1 lap, st.code, BitVec.ofNat 8 c.val, flagByte (faultLinePresent st)] ++
        [tag, fired, skipped, held, clipped, lost, BitVec.ofNat 32 (faultLineOf st)].flatMap wordBytes := by
    simp only [compBytes, List.flatMap_cons, List.flatMap_nil, List.append_assoc, List.append_nil]
  have word (k : Nat) : wordAt (compBytes lap (.jobEnd tag c st fired skipped held clipped lost)) (4 + 4 * k) =
      [tag, fired, skipped, held, clipped, lost, BitVec.ofNat 32 (faultLineOf st)].getD k 0 := by
    rw [split, wordAt_append (n := 4) rfl, wordAt_words]
  refine ⟨_, rfl, (kindByte_fields (k := 1) (by omega) lap).2, ?_, (BitVec.toNat_ofNat _ _).trans (Nat.mod_eq_of_lt (by omega)), ?_,
    word 0, word 1, word 2, word 3, word 4, word 5, (word 6).trans ?_⟩ <;> cases st <;> rfl

/-- The records of a notice: four bytes of which the first is the kind, two words, and zeros. -/
theorem noticeBytes {kind : Nat} (h : kind < 4) (lap : Bool) (v w : Word) :
    ∃ bytes, [kindByte kind lap, 0, 0, 0] ++ wordBytes v ++ wordBytes w ++ List.replicate 20 0 = bytes ∧
      (byteAt bytes 0).extractLsb' 0 7 = BitVec.ofNat 7 kind ∧ wordAt bytes 4 = v ∧ wordAt bytes 8 = w ∧
      ∀ k, 1 ≤ k ∧ k ≤ 3 ∨ 12 ≤ k ∧ k < 32 → byteAt bytes k = 0 := by
  refine ⟨_, rfl, (kindByte_fields h lap).2, wordAt_wordBytes v [], wordAt_wordBytes w [], fun k range => ?_⟩
  rcases range with ⟨low, high⟩ | ⟨low, -⟩
  · match k, low, high with
    | 1, _, _ | 2, _, _ | 3, _, _ => rfl
  · exact byteAt_padded low

/-! ## COMPLETION_WRITE (R148, R154) -/

theorem mayPost_iff (s : State) : mayPost s = true ↔ Config.validCompletionSize s.comp.size = true ∧
    (s.comp.producer.toNat + 1) % s.comp.size.toNat ≠ s.comp.consumer.toNat ∧ s.comp.stopped = false ∧ s.inReset = none := by
  simp [mayPost, ringFull, and_assoc]

theorem exec_completionWrite_none {s : State} (h : s.holding = [] ∨ mayPost s = false) : exec .completionWrite s = .next s := by
  refine next_congr ?_
  cases held : s.holding with
  | nil => rfl
  | cons r rest =>
    have shut : mayPost s = false := h.resolve_left (by rw [held]; nofun)
    exact if_neg (by rw [shut]; nofun)

/-- The part after the write and the evaluation, before the freed entry is handed on. -/
def written (r : CompRecord) (rest : List CompRecord) (s : State) : State := freeJob r (evalInterrupt (postRecord r rest s))

theorem exec_completionWrite {s : State} {r : CompRecord} {rest : List CompRecord} (held : s.holding = r :: rest) (may : mayPost s = true) :
    exec .completionWrite s = .next (giveEntry (written r rest s)) := by
  show Host.Outcome.next (match s.holding with
    | [] => s
    | r :: rest => if mayPost s then writeRecord r rest s else s) = _
  rw [held]
  exact next_congr (if_pos may)

section
variable (r : CompRecord) (rest : List CompRecord) (s : State)

theorem freeJob_rest : { freeJob r s with jobs := s.jobs } = s := by cases r <;> rfl

/-- Besides the ring, the holding list, the condition, the messages and the freed context the write changes nothing. -/
theorem written_rest :
    { written r rest s with comp := s.comp, holding := s.holding, condition := s.condition, link := s.link, jobs := s.jobs } = s := by
  unfold written
  rw [evalInterrupt_eq]
  cases r <;> rfl

theorem written_comp : (written r rest s).comp = posted s.comp s.clock.now := by
  unfold written
  rw [evalInterrupt_eq]
  cases r <;> rfl

theorem written_holding : (written r rest s).holding = rest := by
  unfold written
  rw [evalInterrupt_eq]
  cases r <;> rfl

theorem written_evaluated :
    Evaluated { s with link := s.link ++ [.memWrite (entryAddress s.comp) (compBytes s.comp.lap r)] } (written r rest s) := by
  have e := evalInterrupt_evaluated (s := { s with link := s.link ++ [.memWrite (entryAddress s.comp) (compBytes s.comp.lap r)] })
    (u := postRecord r rest s) rfl rfl
  unfold written
  cases r <;> exact e

theorem written_jobs : (written r rest s).jobs = (freeJob r s).jobs := by
  unfold written
  rw [evalInterrupt_eq]
  cases r <;> rfl

theorem written_parts : (written r rest s).cp = s.cp ∧ (written r rest s).endQueue = s.endQueue ∧
    (written r rest s).eligible = s.eligible ∧ (written r rest s).groups = s.groups := by
  unfold written
  rw [evalInterrupt_eq]
  cases r <;> exact ⟨rfl, rfl, rfl, rfl⟩

end

/-- The ring write of a JOB_END frees its context, and no other record frees one (R22). -/
theorem freeJob_freed {r : CompRecord} {s : State} {c : CtxId} (h : ∃ tag st a b d e f, r = .jobEnd tag c st a b d e f) :
    (freeJob r s).jobs[c] = none := by
  obtain ⟨tag, st, a, b, d, e, f, rfl⟩ := h
  exact jobs_set_self ..

theorem freeJob_kept {r : CompRecord} {s : State} {c : CtxId} (h : ∀ tag st a b d e f, r ≠ .jobEnd tag c st a b d e f) :
    (freeJob r s).jobs[c] = s.jobs[c] := by
  cases r with
  | jobEnd tag x st a b d e f =>
    have other : c ≠ x := fun same => h tag st a b d e f (by rw [same])
    exact jobs_set_ne none s.jobs other
  | response | mark | extentDone => rfl

/-- A placement that fills the holding list is the last. -/
theorem settleOffers_one {s t : State} (room : roomOf s ≠ 0) (full : roomOf t = 0)
    (step : (s.endQueue ≠ [] ∧ t = placeJobEnd s) ∨ (s.endQueue = [] ∧ s.eligible ≠ [] ∧ t = placeDrain s)) (n : Nat) :
    settleOffers (n + 1) s = t := by
  rw [settleOffers, if_pos (unreservedFree_of_room room)]
  rcases step with ⟨waits, rfl⟩ | ⟨empty, waits, rfl⟩
  · rw [if_pos waits, settleOffers_full _ _ (unreservedFree_of_full full)]
  · rw [if_neg (not_not.mpr empty), if_pos waits, settleOffers_full _ _ (unreservedFree_of_full full)]

/-- With a full list, one entry is free after the write. -/
theorem roomOf_written {s : State} {r : CompRecord} {rest : List CompRecord} (held : s.holding = r :: rest) (full : roomOf s = 0)
    (ok : HoldingOk s) : roomOf (written r rest s) = 1 := by
  have bound := ok.1
  rw [held, show Config.holdingCapacity = 8 from rfl, List.length_cons] at bound
  unfold bit at bound
  rw [roomOf, held, List.length_cons] at full
  rw [roomOf, written_holding, (written_parts r rest s).1]
  omega

/-- Settles O51. -/
theorem completionWritePostsHead : Obligations.CompletionWritePostsHead := by
  refine fun s => ⟨fun h => exec_completionWrite_none ?_, fun r rest held size notFull posting ready => ?_⟩
  · by_cases empty : s.holding = []
    · exact .inl empty
    · refine .inr (Bool.eq_false_iff.mpr fun may => ?_)
      obtain ⟨valid, room, posting, ready⟩ := (mayPost_iff s).mp may
      rcases h with e | e | e | e | e
      · exact empty e
      · rw [valid] at e; cases e
      · exact room e
      · rw [posting] at e; cases e
      · rw [ready] at e; cases e
  · have exec_eq := exec_completionWrite held ((mayPost_iff s).mpr ⟨size, notFull, posting, ready⟩)
    obtain ⟨cp, queue, order, groups⟩ := written_parts r rest s
    refine ⟨written r rest s, compBytes s.comp.lap r, compBytes_length _ r, compBytes_lap _ r, ?_, ?_, ?_, ?_, written_comp r rest s,
      written_holding r rest s, written_evaluated r rest s, fun c => ?_, written_rest r rest s, fun none idle => ?_, fun full ok => ?_⟩
    · rintro id status value rfl
      exact responseBytes ..
    · rintro tag c st fired skipped heldEvents clipped lost rfl
      obtain ⟨bytes, e, fields⟩ := jobEndBytes s.comp.lap tag c st fired skipped heldEvents clipped lost
      rw [e]; exact fields
    · rintro tag fired rfl
      obtain ⟨bytes, e, fields⟩ := noticeBytes (kind := 2) (by omega) s.comp.lap tag fired
      rw [show compBytes _ (.mark tag fired) = bytes from e]; exact fields
    · rintro tag ordinal rfl
      obtain ⟨bytes, e, fields⟩ := noticeBytes (kind := 3) (by omega) s.comp.lap tag (BitVec.ofNat 32 ordinal)
      rw [show compBytes _ (.extentDone tag ordinal) = bytes from e]; exact fields
    · rw [written_jobs]
      exact ⟨freeJob_freed, freeJob_kept⟩
    · have reserve : exec .completionWrite s = exec .reservation (written r rest s) :=
        exec_eq.trans (next_congr (if_neg (by rw [queue, order, none, idle]; simp)))
      exact ⟨reserve, fun other => reserve.trans (next_congr (if_neg fun h => other (cp ▸ h.1)))⟩
    · have one := roomOf_written held full ok
      have room : roomOf (written r rest s) ≠ 0 := by omega
      refine ⟨fun c more j st waits job ended => exec_eq.trans (next_congr ?_),
        fun g more none waits first => exec_eq.trans (next_congr ?_)⟩
      · have waiting : (written r rest s).endQueue ≠ [] := by rw [queue, waits]; nofun
        have placed := placeJobEnd_some (unreservedFree_of_room room) (queue.trans waits) job ended
        have left : roomOf (placeJobEnd (written r rest s)) = 0 := by
          rw [roomOf_placed (r := jobEndRecord c j st) (by rw [placed]; rfl) (placeJobEnd_offer _).fields.2.2.2.2.2, one]
        exact (if_pos (.inl waiting)).trans (settleOffers_one room left (.inl ⟨waiting, rfl⟩) 7)
      · obtain ⟨w, ws, waiters⟩ := List.exists_cons_of_ne_nil first
        have waiting : (written r rest s).eligible ≠ [] := by rw [order, waits]; nofun
        have placed := placeDrain_some (unreservedFree_of_room room) (order.trans waits) (by rw [groups]; exact waiters)
        have left : roomOf (placeDrain (written r rest s)) = 0 := by
          rw [roomOf_placed (r := .response w.cmdId .ok 0) (by rw [placed]; rfl) (placeDrain_offer _).fields.2.2.2.2.2, one]
        exact (if_pos (.inr waiting)).trans (settleOffers_one room left (.inr ⟨queue.trans none, waiting, rfl⟩) 7)

end Sys2Proof.Machine
end

section
/-! SUPPORT. Proofs/Ends.lean: what the end of a job leaves, its JOB_END and the drain waiters of an emptied list among it (O48). -/

namespace Sys2Proof.Machine

open Sys2Proof Sys2Proof.Claims

/-! ## The job that moves up (R6) -/

/-- Nobody moves up where no PENDING job comes to position 1. -/
theorem movesUp_nil {s : State} {c : CtxId} {g : GroupId}
    (h : ∀ d m, (s.lists[g].filter fun d => decide (d ≠ c))[1]? = some d → s.jobs[d] = some m → m.state ≠ .pending) :
    movesUp s c g = [] := by
  unfold movesUp
  split
  · rfl
  · rename_i d second
    split
    · rfl
    · rename_i m job
      exact if_neg (h d m second job)

theorem movesUp_some {s : State} {c : CtxId} {g : GroupId} {d : CtxId} {m : Job}
    (second : (s.lists[g].filter fun d => decide (d ≠ c))[1]? = some d) (job : s.jobs[d] = some m) (pending : m.state = .pending) :
    movesUp s c g = [d] := by
  unfold movesUp
  split
  · rename_i none
    rw [second] at none
    cases none
  · rename_i x first
    obtain rfl : d = x := Option.some.inj (second.symm.trans first)
    split
    · rename_i none
      rw [job] at none
      cases none
    · rename_i k same
      obtain rfl : m = k := Option.some.inj (job.symm.trans same)
      exact if_pos pending

theorem mem_movesUp {s : State} {c : CtxId} {g : GroupId} {d : CtxId} (h : d ∈ movesUp s c g) :
    d ≠ c ∧ d ∈ s.lists[g] ∧ ∃ m, s.jobs[d] = some m ∧ m.state = .pending := by
  unfold movesUp at h
  split at h
  · cases h
  · rename_i x second
    split at h
    · cases h
    · rename_i m job
      split at h
      · rename_i pending
        obtain rfl := List.mem_singleton.mp h
        obtain ⟨listed, apart⟩ := List.mem_filter.mp (List.mem_of_getElem? second)
        exact ⟨of_decide_eq_true apart, listed, m, job, pending⟩
      · cases h

/-- Jobs and wait list after the job has left its list: those of `movesUp` have become WAITING at the back. -/
theorem leaveList_movesUp (c : CtxId) (g : GroupId) (s : State) :
    (leaveList c g s).slotWait = s.slotWait ++ movesUp s c g ∧
    ∀ d : CtxId, (leaveList c g s).jobs[d] =
      if d ∈ movesUp s c g then s.jobs[d].map (fun m => { m with state := .waiting }) else s.jobs[d] := by
  have dropped : (dropFromList c g s).lists[g] = s.lists[g].filter (fun d => decide (d ≠ c)) := by
    rw [dropFromList_get, if_pos rfl]
  obtain ⟨-, moved⟩ := moveUp_spec g (dropFromList c g s)
  rw [dropped] at moved
  by_cases up : ∃ d m, (s.lists[g].filter fun d => decide (d ≠ c))[1]? = some d ∧ s.jobs[d] = some m ∧ m.state = .pending
  · obtain ⟨d, m, second, job, pending⟩ := up
    have left : leaveList c g s = joinWait d (dropFromList c g s) := by
      have more : (dropFromList c g s).lists[g] ≠ [] := by
        rw [dropped]
        intro empty
        rw [empty] at second
        cases second
      have front : jobStateOf (dropFromList c g s) d = some .pending := by
        show s.jobs[d].map Job.state = _
        rw [job, Option.map_some, pending]
      rw [leaveList, if_neg more, moveUp, dropped, second]
      exact if_pos front
    rw [movesUp_some second job pending, left]
    refine ⟨rfl, fun x => (setJobState_get d x .waiting _).trans ?_⟩
    by_cases same : x = d
    · subst same
      rw [if_pos rfl, if_pos (List.mem_singleton.mpr rfl)]; rfl
    · rw [if_neg same, if_neg (mt List.mem_singleton.mp same)]; rfl
  · have stays : movesUp s c g = [] := movesUp_nil fun d m second job pending => up ⟨d, m, second, job, pending⟩
    have left : leaveList c g s = makeDue c g (dropFromList c g s) ∨ leaveList c g s = dropFromList c g s := by
      unfold leaveList
      split
      · exact .inl rfl
      · refine .inr (moved.resolve_right ?_)
        rintro ⟨d, second, pending, -⟩
        obtain ⟨m, job, state⟩ := Option.map_eq_some_iff.mp (show s.jobs[d].map Job.state = some .pending from pending)
        exact up ⟨d, m, second, job, state⟩
    rw [stays]
    rcases left with e | e <;> rw [e] <;> exact ⟨(List.append_nil _).symm, fun d => (if_neg List.not_mem_nil).symm⟩

/-- `movesUp` reads the lists and the jobs of other contexts. -/
theorem movesUp_congr {s t : State} {c : CtxId} {g : GroupId} (lists : t.lists = s.lists)
    (jobs : ∀ d : CtxId, d ≠ c → t.jobs[d] = s.jobs[d]) : movesUp t c g = movesUp s c g := by
  unfold movesUp
  rw [lists]
  cases second : (s.lists[g].filter fun d => decide (d ≠ c))[1]? with
  | none => rfl
  | some d =>
    have apart := (List.mem_filter.mp (List.mem_of_getElem? second)).2
    dsimp only
    rw [jobs d (of_decide_eq_true apart)]

theorem releasedState_eq_freed (c : CtxId) (st : SlotState) : releasedState c st = freed c st := by
  cases st <;> rfl

/-! ## The part once the job has left (R9, R40) -/

/-- The job has ended, left the wait list, and its ring is released. -/
def ended (c : CtxId) (st : EndStatus) (s : State) : State := releaseRing c (leaveWait c (markEnded c st s))

theorem leaving_eq (c : CtxId) (st : EndStatus) (g : GroupId) (s : State) : leaving c st g s = queueEnd c (leaveList c g (ended c st s)) := rfl

section
variable (c : CtxId) (st : EndStatus) (g : GroupId) (s : State)

theorem ended_jobs_ne {d : CtxId} (h : d ≠ c) : (ended c st s).jobs[d] = s.jobs[d] := modJob_get_ne _ _ h

theorem leaving_slotWait : (leaving c st g s).slotWait = s.slotWait.filter (fun d => decide (d ≠ c)) ++ movesUp s c g := by
  rw [← movesUp_congr (s := s) (t := ended c st s) rfl fun d h => ended_jobs_ne c st s h]
  exact (leaveList_movesUp c g (ended c st s)).1

theorem leaving_jobs_ne {d : CtxId} (h : d ≠ c) : (leaving c st g s).jobs[d] =
    if d ∈ movesUp s c g then s.jobs[d].map (fun m => { m with state := .waiting }) else s.jobs[d] := by
  rw [← movesUp_congr (s := s) (t := ended c st s) rfl fun d h => ended_jobs_ne c st s h, ← ended_jobs_ne c st s h]
  exact (leaveList_movesUp c g (ended c st s)).2 d

/-- Besides jobs, lists, slots, wait list, group records and end queue nothing has changed. -/
theorem leaving_rest :
    { leaving c st g s with
      jobs := s.jobs, lists := s.lists, slots := s.slots, slotWait := s.slotWait, groups := s.groups,
      endQueue := s.endQueue } = s := by
  obtain ⟨-, -, frame, -⟩ := leaveList_spec c g (ended c st s)
  calc
    _ = { ({ leaveList c g (ended c st s) with
              jobs := (ended c st s).jobs, lists := (ended c st s).lists, slotWait := (ended c st s).slotWait,
              groups := (ended c st s).groups } : State) with
          jobs := s.jobs, lists := s.lists, slots := s.slots, slotWait := s.slotWait, groups := s.groups,
          endQueue := s.endQueue } := rfl
    _ = s := by rw [frame]; rfl

theorem leaving_slots (i : SlotId) : (leaving c st g s).slots[i] = { s.slots[i] with state := freed c s.slots[i].state } := by
  have slots : (leaving c st g s).slots = (releaseRing c s).slots := by
    have e := congrArg State.slots (leaveList_spec c g (ended c st s)).2.2.1
    exact e
  rw [slots, releaseRing_get, releasedState_eq_freed]

theorem leaving_queue : (leaving c st g s).endQueue = s.endQueue ++ [c] := by
  have e := congrArg State.endQueue (leaveList_spec c g (ended c st s)).2.2.1
  exact congrArg (· ++ [c]) e

theorem not_mem_leaving_slotWait : c ∉ (leaving c st g s).slotWait := by
  rw [leaving_slotWait]
  simp only [List.mem_append, List.mem_filter, not_or]
  exact ⟨fun h => of_decide_eq_true h.2 rfl, fun h => (mem_movesUp h).1 rfl⟩

end

/-! ## Settling the offers -/

/-- With no JOB_END waiting, only drain responses are placed. -/
theorem settleOffers_extends (n : Nat) (s : State) (h : s.endQueue = []) :
    (settleOffers n s).endQueue = [] ∧ ∃ more, (settleOffers n s).holding = s.holding ++ more := by
  induction n generalizing s with
  | zero => exact ⟨h, [], (List.append_nil _).symm⟩
  | succ n ih =>
    unfold settleOffers
    rw [if_neg (not_not.mpr h)]
    split
    · split
      · rename_i free waits
        obtain ⟨g, rest, order⟩ := List.exists_cons_of_ne_nil waits
        have placed : (placeDrain s).endQueue = [] ∧ ∃ more, (placeDrain s).holding = s.holding ++ more := by
          unfold placeDrain
          rw [order]
          dsimp only
          rw [if_pos free]
          cases s.groups[g].waiters with
          | nil => exact ⟨h, [], (List.append_nil _).symm⟩
          | cons w ws => exact ⟨h, [_], rfl⟩
        obtain ⟨empty, more, held⟩ := placed
        obtain ⟨still, others, then_held⟩ := ih _ empty
        exact ⟨still, more ++ others, by rw [then_held, held, List.append_assoc]⟩
      · exact ⟨h, [], (List.append_nil _).symm⟩
    · exact ⟨h, [], (List.append_nil _).symm⟩

/-! ## The end of a job (R9, R21, R43) -/

section
variable {c : CtxId} {j : Job} {s : State} (st : EndStatus)

/-- The part after the grant rule, before the JOB_END is offered. -/
def granted (c : CtxId) (st : EndStatus) (g : GroupId) (s : State) : State := grant (leaving c st g s)

theorem granted_parts (g : GroupId) : (granted c st g s).holding = s.holding ∧ (granted c st g s).cp = s.cp ∧
    (granted c st g s).endQueue = s.endQueue ++ [c] ∧ (granted c st g s).eligible = s.eligible ∧
    (granted c st g s).groups = (leaving c st g s).groups := by
  have grants := (grant_grant (leaving c st g s)).1
  have left := leaving_rest c st g s
  have holding := congrArg State.holding grants
  have cp := congrArg State.cp grants
  have queue := congrArg State.endQueue grants
  have eligible := congrArg State.eligible grants
  have groups := congrArg State.groups grants
  have holding_left := congrArg State.holding left
  have cp_left := congrArg State.cp left
  have eligible_left := congrArg State.eligible left
  exact ⟨holding.trans holding_left, cp.trans cp_left, queue.trans (leaving_queue c st g s), eligible.trans eligible_left, groups⟩

theorem granted_room (g : GroupId) : roomOf (granted c st g s) = roomOf s := by
  obtain ⟨holding, cp, -⟩ := granted_parts (c := c) (s := s) st g
  rw [roomOf, roomOf, holding, cp]

theorem endJob_granted (h : s.jobs[c] = some j) : endJob c st s = settleOffers 8 (granted c st j.group s) := endJob_some st h

theorem endJob_offer (h : s.jobs[c] = some j) : OfferFrame (granted c st j.group s) (endJob c st s) := by
  rw [endJob_granted st h]
  exact settleOffers_offer 8 _

theorem granted_job (h : s.jobs[c] = some j) :
    (granted c st j.group s).jobs[c] = some { j with state := .ended st, extents := [], retired := 0, cursor := 0 } := by
  rw [← (endJob_offer st h).fields.1]
  exact (endJob_spec st h).1

/-- With an entry free and none waiting before it, the JOB_END is placed at once. -/
theorem endJob_placed (h : s.jobs[c] = some j) (none : s.endQueue = []) (room : roomOf s ≠ 0) :
    endJob c st s = settleOffers 7 (placeJobEnd (granted c st j.group s)) ∧
    placeJobEnd (granted c st j.group s) = noteEligible (readyWaiters c (setEndQueue [] (place
      (.jobEnd j.tag c st j.linesFired j.linesSkipped j.heldEvents j.clipped j.noticesLost) (granted c st j.group s)))) := by
  obtain ⟨-, -, queue, -⟩ := granted_parts (c := c) (s := s) st j.group
  have free := unreservedFree_of_room (by rw [granted_room]; exact room : roomOf (granted c st j.group s) ≠ 0)
  rw [none] at queue
  have placed := placeJobEnd_some free queue (granted_job st h) rfl
  refine ⟨?_, placed⟩
  rw [endJob_granted st h, settleOffers, if_pos free, if_pos (by rw [queue]; nofun)]

theorem endJob_full (h : s.jobs[c] = some j) (full : roomOf s = 0) : endJob c st s = granted c st j.group s := by
  rw [endJob_granted st h]
  exact settleOffers_full _ _ (unreservedFree_of_full (by rw [granted_room]; exact full))

theorem endJob_grantAfterEnd (h : s.jobs[c] = some j) : GrantAfterEnd s (endJob c st s) c j.group := by
  let u := leaving c st j.group s
  obtain ⟨jobs, -, slots, wait, -⟩ := (endJob_offer st h).fields
  refine ⟨besideGrant s.lists s.groups s.endQueue u, grant (besideGrant s.lists s.groups s.endQueue u), rfl, ?_, ?_, ?_, ?_,
    fun d apart => leaving_jobs_ne c st j.group s apart, leaving_slotWait c st j.group s, leaving_slots c st j.group s,
    leaving_rest c st j.group s⟩
  · rw [jobs, grant_besideGrant]; rfl
  · rw [slots, grant_besideGrant]; rfl
  · rw [wait, grant_besideGrant]; rfl
  · have kept := (grant_grant u).2.2.1 c (not_mem_leaving_slotWait c st j.group s)
    rw [jobs]
    exact kept.symm

/-- The end of a job, whole. -/
theorem endJob_jobEnds (h : s.jobs[c] = some j) : JobEnds s (endJob c st s) c j st := by
  obtain ⟨job, ring, wait, lists, groups, pulses, -, -⟩ := endJob_spec st h
  obtain ⟨-, -, slots, slotWait, -, -⟩ := (endJob_offer st h).fields
  refine ⟨⟨_, job, ⟨rfl, rfl, rfl, rfl, rfl, rfl, rfl⟩, rfl, rfl, rfl, rfl, rfl, rfl, rfl, rfl⟩, ring, wait, lists, fun none room => ?_,
    fun full => ?_, fun none idle => ?_, endJob_grantAfterEnd st h, groups, pulses, endJob_frame c st s⟩
  · obtain ⟨settled, placed⟩ := endJob_placed st h none room
    obtain ⟨holding, -⟩ := granted_parts (c := c) (s := s) st j.group
    obtain ⟨empty, more, held⟩ := settleOffers_extends 7 (placeJobEnd (granted c st j.group s)) (by rw [placed]; rfl)
    rw [settled]
    refine ⟨empty, more, ?_⟩
    rw [held, List.append_cons, ← holding, placed]
    rfl
  · obtain ⟨holding, -, queue, -⟩ := granted_parts (c := c) (s := s) st j.group
    rw [endJob_full st h full]
    exact ⟨queue, holding⟩
  · have noneUp : movesUp s c j.group = [] := by
      refine List.eq_nil_iff_forall_not_mem.mpr fun d up => ?_
      obtain ⟨-, listed, m, job, pending⟩ := mem_movesUp up
      exact idle d listed m job pending
    have empty : (leaving c st j.group s).slotWait = [] := by rw [leaving_slotWait, none, noneUp]; rfl
    have same : granted c st j.group s = leaving c st j.group s := grant_empty _ empty
    rw [slotWait, slots, same]
    exact ⟨empty, leaving_slots c st j.group s⟩

end

/-! ## Drain waiters (R68) -/

/-- No JOB_END waits, and the drain waiters that may be offered are those of this group, all of them. -/
structure Draining (g : GroupId) (s : State) : Prop where
  queue : s.endQueue = []
  order : s.eligible = if s.groups[g].waiters = [] then [] else [g]
  ready : ∀ w ∈ s.groups[g].waiters, w.state = .ready
  others : ∀ h : GroupId, h ≠ g → frontReady s.groups[h] = false

/-- The group's waiters may be offered, and no group's before. -/
theorem newlyEligible_one {s : State} {g : GroupId} (none : s.eligible = []) (ready : ∀ w ∈ s.groups[g].waiters, w.state = .ready)
    (others : ∀ h : GroupId, h ≠ g → frontReady s.groups[h] = false) :
    newlyEligible s = if s.groups[g].waiters = [] then [] else [g] := by
  have only : ∀ g : GroupId, (List.finRange 4).filter (fun k => decide (k = g)) = [g] := fun g => by fin_cases g <;> rfl
  unfold newlyEligible
  split
  · rename_i empty
    refine List.filter_eq_nil_iff.mpr fun k _ => ?_
    rw [none]
    by_cases same : k = g
    · subst same
      have quiet : frontReady s.groups[k] = false := by unfold frontReady; rw [empty]
      rw [quiet]; nofun
    · rw [others k same]; nofun
  · rename_i some
    obtain ⟨w, ws, waits⟩ := List.exists_cons_of_ne_nil some
    rw [← only g]
    refine List.filter_congr fun k _ => ?_
    rw [none]
    by_cases same : k = g
    · subst same
      have front : frontReady s.groups[k] = true := (frontReady_iff _).mpr ⟨w, ws, waits, ready w (waits ▸ List.mem_cons_self)⟩
      rw [front, decide_eq_true rfl]; rfl
    · rw [others k same, decide_eq_false same]; rfl

theorem noteEligible_draining {s : State} {g : GroupId} (queue : s.endQueue = []) (none : s.eligible = [])
    (ready : ∀ w ∈ s.groups[g].waiters, w.state = .ready) (others : ∀ h : GroupId, h ≠ g → frontReady s.groups[h] = false) :
    Draining g (noteEligible s) := by
  refine ⟨queue, ?_, ready, others⟩
  show s.eligible ++ newlyEligible s = if s.groups[g].waiters = [] then [] else [g]
  rw [newlyEligible_one none ready others, none]
  rfl

theorem placeDrain_draining {g : GroupId} {s : State} {w : DrainWaiter} {ws : List DrainWaiter} (h : Draining g s)
    (waits : s.groups[g].waiters = w :: ws) (room : roomOf s ≠ 0) :
    Draining g (placeDrain s) ∧ (placeDrain s).holding = s.holding ++ [.response w.cmdId .ok 0] ∧
    (placeDrain s).groups[g].waiters = ws ∧ (∀ k : GroupId, k ≠ g → (placeDrain s).groups[k] = s.groups[k]) ∧
    roomOf (placeDrain s) = roomOf s - 1 := by
  have order : s.eligible = g :: [] := by rw [h.order, if_neg (by rw [waits]; nofun)]
  have placed := placeDrain_some (unreservedFree_of_room room) order waits
  let t := setEligible [] (dropWaiter g (place (.response w.cmdId .ok 0) s))
  have self : t.groups[g].waiters = ws := by
    show (modGroup g _ _).groups[g].waiters = ws
    rw [modGroup_get_self]
    show s.groups[g].waiters.tail = ws
    rw [waits]; rfl
  have other (k : GroupId) (apart : k ≠ g) : t.groups[k] = s.groups[k] := modGroup_get_ne _ _ apart
  have ready : ∀ x ∈ t.groups[g].waiters, x.state = .ready := fun x hx =>
    h.ready x (by rw [waits]; rw [self] at hx; exact List.mem_cons_of_mem _ hx)
  have quiet (k : GroupId) (apart : k ≠ g) : frontReady t.groups[k] = false := by rw [other k apart]; exact h.others k apart
  have held : (placeDrain s).holding = s.holding ++ [.response w.cmdId .ok 0] := by rw [placed]; rfl
  have groups : (placeDrain s).groups = t.groups := by rw [placed]; rfl
  refine ⟨?_, held, groups ▸ self, groups ▸ other, roomOf_placed held (placeDrain_offer s).fields.2.2.2.2.2⟩
  rw [placed]
  exact noteEligible_draining (s := t) h.queue rfl ready quiet

/-- The waiters of a draining group are answered, oldest first, while entries are free. -/
theorem settleOffers_draining {g : GroupId} (n : Nat) (s : State) (h : Draining g s) (enough : roomOf s ≤ n) :
    (settleOffers n s).holding = s.holding ++ (s.groups[g].waiters.map fun w => CompRecord.response w.cmdId .ok 0).take (roomOf s) ∧
    (settleOffers n s).groups[g].waiters = s.groups[g].waiters.drop (roomOf s) ∧
    ∀ k : GroupId, k ≠ g → (settleOffers n s).groups[k] = s.groups[k] := by
  induction n generalizing s with
  | zero =>
    rw [Nat.le_zero.mp enough]
    exact ⟨(List.append_nil _).symm, rfl, fun _ _ => rfl⟩
  | succ n ih =>
    by_cases full : roomOf s = 0
    · rw [settleOffers_full _ _ (unreservedFree_of_full full), full]
      exact ⟨(List.append_nil _).symm, rfl, fun _ _ => rfl⟩
    · rw [settleOffers, if_pos (unreservedFree_of_room full), if_neg (not_not.mpr h.queue)]
      cases waits : s.groups[g].waiters with
      | nil =>
        rw [if_neg (by rw [h.order, if_pos waits]; simp)]
        exact ⟨by simp, by rw [waits, List.drop_nil], fun _ _ => rfl⟩
      | cons w ws =>
        obtain ⟨next, held, left, others, room⟩ := placeDrain_draining h waits full
        obtain ⟨answers, rest, kept⟩ := ih (placeDrain s) next (by omega)
        rw [if_pos (by rw [h.order, if_neg (by rw [waits]; nofun)]; nofun), answers, rest, held, left, room]
        obtain ⟨k, e⟩ := Nat.exists_eq_succ_of_ne_zero full
        rw [e]
        exact ⟨by simp, rfl, fun h apart => (kept h apart).trans (others h apart)⟩

section
variable {c : CtxId} {j : Job} {s : State} {st : EndStatus} (alone : s.lists[j.group] = [c])
  (parked : ∀ h : GroupId, ∀ w ∈ s.groups[h].waiters, w.state = .parked)
include alone parked

/-- The waiters of the emptied list note the job that has ended; no other group has changed. -/
theorem granted_groups (h : GroupId) : (granted c st j.group s).groups[h] =
    if h = j.group then { s.groups[h] with waiters := s.groups[h].waiters.map fun w => { w with state := .due c } } else s.groups[h] := by
  have emptied : (ended c st s).lists[j.group].filter (fun d => decide (d ≠ c)) = [] := by
    show s.lists[j.group].filter _ = []
    rw [alone]
    simp
  rw [(granted_parts st j.group).2.2.2.2]
  refine ((leaveList_spec c j.group (ended c st s)).2.1 h).trans ?_
  by_cases same : h = j.group
  · subst same
    rw [if_pos ⟨rfl, emptied⟩, if_pos rfl]
    show ({ s.groups[j.group] with waiters := s.groups[j.group].waiters.map (dueWaiter c) } : GroupState) = _
    rw [List.map_congr_left fun w hw => show dueWaiter c w = { w with state := .due c } from if_pos (parked j.group w hw)]
  · rw [if_neg fun e => same e.1, if_neg same]
    rfl

/-- Once the JOB_END is placed those waiters may be offered. -/
theorem readyWaiters_granted {u : State} (same : u.groups = (granted c st j.group s).groups) (h : GroupId) :
    (readyWaiters c u).groups[h] =
      if h = j.group then { s.groups[h] with waiters := s.groups[h].waiters.map fun w => { w with state := .ready } } else s.groups[h] := by
  rw [readyWaiters_get, same, granted_groups alone parked]
  split
  · simp [readyWaiter]
  · have still : s.groups[h].waiters.map (readyWaiter c) = s.groups[h].waiters := by
      rw [List.map_congr_left fun w hw => show readyWaiter c w = w from if_neg (by rw [parked h w hw]; nofun), List.map_id']
    rw [still]

theorem placeJobEnd_draining (job : s.jobs[c] = some j) (none : s.endQueue = []) (idle : s.eligible = []) (room : roomOf s ≠ 0) :
    Draining j.group (placeJobEnd (granted c st j.group s)) ∧
    ∀ h : GroupId, (placeJobEnd (granted c st j.group s)).groups[h] =
      if h = j.group then { s.groups[h] with waiters := s.groups[h].waiters.map fun w => { w with state := .ready } } else s.groups[h] := by
  obtain ⟨-, placed⟩ := endJob_placed st job none room
  have order := (granted_parts (c := c) (s := s) st j.group).2.2.2.1.trans idle
  generalize record : CompRecord.jobEnd j.tag c st j.linesFired j.linesSkipped j.heldEvents j.clipped j.noticesLost = r at placed
  have queue : (readyWaiters c (setEndQueue [] (place r (granted c st j.group s)))).endQueue = [] := by
    simp only [readyWaiters_endQueue, setEndQueue_endQueue]
  have order : (readyWaiters c (setEndQueue [] (place r (granted c st j.group s)))).eligible = [] := by
    simp only [readyWaiters_eligible, setEndQueue_eligible, place_eligible, order]
  have after := readyWaiters_granted alone parked
    (show (setEndQueue [] (place r (granted c st j.group s))).groups = (granted c st j.group s).groups by
      simp only [setEndQueue_groups, place_groups])
  rw [placed]
  refine ⟨noteEligible_draining queue order (fun w hw => ?_) fun h apart => ?_, after⟩
  · rw [after, if_pos rfl] at hw
    obtain ⟨x, -, rfl⟩ := List.mem_map.mp hw
    rfl
  · rw [after, if_neg apart]
    refine Bool.eq_false_iff.mpr fun front => ?_
    obtain ⟨w, ws, waits, state⟩ := (frontReady_iff _).mp front
    have still := parked h w (waits ▸ List.mem_cons_self)
    rw [state] at still
    cases still

end

/-- Settles O48. -/
theorem drainWaitersAnswerAfterJobEnd : Obligations.DrainWaitersAnswerAfterJobEnd := by
  intro s c j st job alone none idle parked
  obtain ⟨holding, cp, queue, -, -⟩ := granted_parts (c := c) (s := s) st j.group
  by_cases full : roomOf s = 0
  · rw [endJob_full st job full, full]
    refine ⟨by rw [holding]; exact (List.append_nil _).symm, fun some => absurd rfl some, fun _ => ⟨by rw [queue, none]; rfl, ?_⟩, fun h apart => ?_⟩
    · rw [granted_groups alone parked, if_pos rfl]
    · rw [granted_groups alone parked, if_neg apart]
  · obtain ⟨settled, placed⟩ := endJob_placed st job none full
    obtain ⟨draining, after⟩ := placeJobEnd_draining (st := st) alone parked job none idle full
    have held : (placeJobEnd (granted c st j.group s)).holding = s.holding ++
        [.jobEnd j.tag c st j.linesFired j.linesSkipped j.heldEvents j.clipped j.noticesLost] := by rw [placed, ← holding]; rfl
    have room : roomOf (placeJobEnd (granted c st j.group s)) = roomOf s - 1 :=
      (roomOf_placed (s := s) held ((placeJobEnd_offer _).fields.2.2.2.2.2.trans cp))
    have enough : roomOf s - 1 ≤ 7 := by unfold roomOf; omega
    obtain ⟨answers, rest, kept⟩ := settleOffers_draining 7 _ draining (room ▸ enough)
    rw [settled, answers, rest, held, after, if_pos rfl, room]
    obtain ⟨n, e⟩ := Nat.exists_eq_succ_of_ne_zero full
    refine ⟨?_, fun _ => (List.map_drop ..).symm, fun none => absurd none full, fun h apart => (kept h apart).trans ((after h).trans (if_neg apart))⟩
    rw [e]
    simp [Function.comp_def]

end Sys2Proof.Machine
end

section
/-! SUPPORT. Proofs/Closing.lean: the commands and events that end a job: CLOSE_JOB, ABORT_JOB, PULSE_END and failed line reads (O28, O32,
O43, O44). -/

namespace Sys2Proof.Machine

open Sys2Proof Sys2Proof.Claims

/-! ## Cuts that count nothing (R85) -/

theorem cutSpan_pulses (g : GroupId) (s : State) : (cutSpan g s).pulses = cutPulses s g :=
  table_ext fun lane => by
    rw [cutPulses]
    simp [cutSpan, cutPulse]

theorem cutUncounted_eq_afterCut (j : Job) (s : State) : cutUncounted j s = afterCut j s := by
  unfold cutUncounted afterCut
  by_cases fires : j.state = .running ∨ j.state = .finishing
  · rw [if_pos ((isFiringState_iff j).mpr fires), if_pos fires, ← cutSpan_pulses]
    rfl
  · rw [if_neg (mt (isFiringState_iff j).mp fires), if_neg fires]

/-! ## ABORT_JOB (R17, R141) -/

/-- Settles O44. -/
theorem abortJobEndsJobAtOnce : Obligations.AbortJobEndsJobAtOnce := by
  intro s r id tag c j read carries live
  refine ⟨applyAbort c j s, ?_, ?_⟩
  · rw [applyAbort, cutUncounted_eq_afterCut]
    exact endJob_jobEnds .aborted carries.1
  · refine (next_onRecord _ read).trans (next_congr ?_)
    rw [withJob_carries r id _ carries live, respond_eq_ended]

/-! ## CLOSE_JOB (R16, R139) -/

/-- A job ended after it was closed has ended as the open one: JOB_END and grants do not depend on OPEN. -/
theorem jobEnds_of_closed {s t : State} {c : CtxId} {j : Job} {st : EndStatus} (job : s.jobs[c] = some j)
    (h : JobEnds { s with jobs := s.jobs.set c (some { j with isOpen := false }) } t c { j with isOpen := false } st) :
    JobEnds s t c j st := by
  obtain ⟨ended, ring, wait, lists, placed, full, slots, grants, groups, pulses, frame⟩ := h
  have other (d : CtxId) (apart : d ≠ c) : (s.jobs.set c (some { j with isOpen := false }))[d] = s.jobs[d] := jobs_set_ne _ _ apart
  have up : movesUp { s with jobs := s.jobs.set c (some { j with isOpen := false }) } c j.group = movesUp s c j.group :=
    movesUp_congr rfl other
  refine ⟨ended, ring, wait, lists, placed, full, fun none idle => slots none fun d listed m dm => ?_, ?_, groups, pulses, ?_⟩
  · by_cases same : d = c
    · subst same
      obtain rfl : { j with isOpen := false } = m := Option.some.inj ((jobs_set_self d _ s.jobs).symm.trans dm)
      exact idle d listed j job
    · exact idle d listed m ((other d same).symm.trans dm)
  · obtain ⟨w, v, grant_eq, jobs, slots, slotWait, self, others, wait, ring, rest⟩ := grants
    rw [up] at wait
    refine ⟨w, v, grant_eq, jobs, slots, slotWait, self, fun d apart => ?_, wait, ring, ?_⟩
    · have e := others d apart
      rw [up] at e
      rw [e, other d apart]
    · have e := congrArg (fun x : State => { x with jobs := s.jobs }) rest
      exact e
  · have e := congrArg (fun x : State => { x with jobs := s.jobs }) frame
    exact e

section
variable {s : State} {c : CtxId} {j : Job} (job : s.jobs[c] = some j)
include job

theorem applyClose_ends (all : j.firePos = j.supplied) (state : j.state = .pending ∨ j.state = .waiting ∨ j.state = .primed ∨
    (j.state = .running ∧ ∀ lane : LaneId, ∀ d, pulseJob s.pulses[lane] ≠ some (j.group, d))) :
    JobEnds s (applyClose c j s) c j .ended := by
  have ends : applyClose c j s = endJob c .ended { s with jobs := s.jobs.set c (some { j with isOpen := false }) } := by
    unfold applyClose
    rw [modJob_some _ job]
    rcases state with e | e | e | ⟨e, quiet⟩ <;> rw [e] <;> dsimp only
    · rw [if_pos all]
    · rw [if_pos all]
    · rw [if_pos all]
    · rw [if_pos all, if_pos ((outstanding_zero_iff s j.group).mpr quiet)]
  rw [ends]
  exact jobEnds_of_closed job (endJob_jobEnds (s := { s with jobs := s.jobs.set c (some { j with isOpen := false }) }) .ended
    (jobs_set_self c _ s.jobs))

theorem applyClose_finishes (all : j.firePos = j.supplied) (running : j.state = .running)
    (pulse : ∃ lane : LaneId, ∃ d, pulseJob s.pulses[lane] = some (j.group, d)) :
    applyClose c j s = { s with jobs := s.jobs.set c (some { j with isOpen := false, state := .finishing }) } := by
  obtain ⟨lane, d, there⟩ := pulse
  unfold applyClose
  rw [modJob_some _ job, running]
  dsimp only
  rw [if_pos all, if_neg fun none => (outstanding_zero_iff s j.group).mp none lane d there, setJobState, modJob_some _ (jobs_set_self c _ s.jobs),
    jobs_set_set]

theorem applyClose_closes (h : j.firePos ≠ j.supplied ∨ j.state = .armed) :
    applyClose c j s = { s with jobs := s.jobs.set c (some { j with isOpen := false }) } := by
  unfold applyClose
  rw [modJob_some _ job]
  rcases h with some | armed
  · cases j.state <;> dsimp only <;> rw [if_neg some]
  · rw [armed]

end

/-- Settles O43. -/
theorem closeJobEndsOrFinishesJob : Obligations.CloseJobEndsOrFinishesJob := by
  intro s r id tag c j read carries live opened
  have closed : exec (.closeJob id tag) s = .next (Ended r id .ok 0 (applyClose c j s)) := by
    refine (next_onRecord _ read).trans (next_congr ?_)
    rw [withJob_carries r id _ carries live, closeOpenJob, if_neg (by rw [opened]; nofun), respond_eq_ended]
  refine ⟨fun all => ⟨fun state => ⟨_, applyClose_ends carries.1 all state, closed⟩, fun running pulse => ?_⟩, fun h => ?_⟩
  · rw [closed, applyClose_finishes carries.1 all running pulse]
  · rw [closed, applyClose_closes carries.1 h]

/-! ## PULSE_START and PULSE_END (R13, R79, R81) -/

theorem pulseActive_iff (p : Pulse) : pulseActive p = true ↔ ∃ a b g c, p = .active a b g c := by
  cases p <;> simp [pulseActive]

theorem laneLevel_active {s : State} {lane : LaneId} (ready : s.inReset = none) (h : ∃ a b g c, s.pulses[lane] = .active a b g c) :
    laneLevel s lane = decide (s.lanes[lane].polarity = .activeHigh) := by
  unfold laneLevel
  rw [ready, (pulseActive_iff _).mpr h]
  cases s.lanes[lane].polarity <;> rfl

theorem laneLevel_idle {s : State} {lane : LaneId} (ready : s.inReset = none) (h : ∀ a b g c, s.pulses[lane] ≠ .active a b g c) :
    laneLevel s lane = decide (s.lanes[lane].polarity = .activeLow) := by
  have idle : pulseActive s.pulses[lane] = false := Bool.eq_false_iff.mpr fun active => by
    obtain ⟨a, b, g, c, e⟩ := (pulseActive_iff _).mp active
    exact h a b g c e
  unfold laneLevel
  rw [ready, idle]
  cases s.lanes[lane].polarity <;> rfl

theorem exec_pulseStart_none {s : State} {lane : LaneId} (h : ∀ a b g c, s.pulses[lane] ≠ .scheduled a b g c) :
    exec (.pulseStart lane) s = .next s := by
  refine next_congr ?_
  cases e : s.pulses[lane] with
  | scheduled a b g c => exact absurd e (h a b g c)
  | none | active => rfl

theorem exec_pulseEnd_none {s : State} {lane : LaneId} (h : ∀ a b g c, s.pulses[lane] ≠ .active a b g c) :
    exec (.pulseEnd lane) s = .next s := by
  refine next_congr ?_
  cases e : s.pulses[lane] with
  | active a b g c => exact absurd e (h a b g c)
  | none | scheduled => rfl

theorem exec_pulseStart {s : State} {lane : LaneId} {a b : Nat} {g : GroupId} {c : CtxId} (h : s.pulses[lane] = .scheduled a b g c) :
    exec (.pulseStart lane) s = .next (withPulse lane (.active a b g c) (toTick a s)) := by
  refine next_congr ?_
  rw [h]
  rfl

theorem exec_pulseEnd {s : State} {lane : LaneId} {a b : Nat} {g : GroupId} {c : CtxId} (h : s.pulses[lane] = .active a b g c) :
    exec (.pulseEnd lane) s = .next (reportPulseEnd g c (withPulse lane .none (toTick b s))) := by
  refine next_congr ?_
  rw [h]
  rfl

/-- No pulse of the group is left once this lane's has ended, if no other lane has one. -/
theorem outstanding_withPulse_none_iff (s : State) (lane : LaneId) (g : GroupId) :
    outstanding (withPulse lane .none s) g = 0 ↔ ∀ other, other ≠ lane → ∀ d, pulseJob s.pulses[other] ≠ some (g, d) := by
  have self : (withPulse lane .none s).pulses[lane] = .none := by simp [withPulse]
  have rest (other : LaneId) (apart : other ≠ lane) : (withPulse lane .none s).pulses[other] = s.pulses[other] := by
    have different : lane.val ≠ other.val := fun e => apart (Fin.ext e.symm)
    simp [withPulse, different]
  rw [outstanding_zero_iff]
  refine ⟨fun h other apart d => rest other apart ▸ h other d, fun h other d => ?_⟩
  by_cases same : other = lane
  · rw [same, self]; nofun
  · rw [rest other same]; exact h other same d

theorem jobEnds_left {s t : State} {c : CtxId} {j : Job} {st : EndStatus} (h : JobEnds s t c j st) : c ∉ t.lists[j.group] := by
  obtain ⟨-, -, -, lists, -⟩ := h
  rw [lists, if_pos rfl]
  intro listed
  exact of_decide_eq_true (List.mem_filter.mp listed).2 rfl

/-- Settles O28. -/
theorem pulsesStartAndEndAtTheirTicks : Obligations.PulsesStartAndEndAtTheirTicks := by
  refine ⟨fun s lane ready => ⟨laneLevel_active ready, laneLevel_idle ready⟩, fun s lane a b g c scheduled =>
    ⟨toTick a s, toTick_spec a s, exec_pulseStart scheduled⟩, fun s lane => exec_pulseStart_none, fun s lane => exec_pulseEnd_none,
    fun s lane a b g c active => ?_⟩
  have frame := (toTick_spec b s).1
  have pulses : (toTick b s).pulses = s.pulses := by
    have e := congrArg State.pulses frame
    exact e
  have jobs : (withPulse lane .none (toTick b s)).jobs = s.jobs := by
    have e := congrArg State.jobs frame
    exact e
  refine ⟨toTick b s, toTick_spec b s, fun more => ?_, fun last j job finishing => ?_⟩
  · rw [exec_pulseEnd active]
    refine next_congr (if_neg fun ⟨left, finishing⟩ => ?_)
    rw [outstanding_withPulse_none_iff, pulses] at left
    rw [jobStateOf, jobs] at finishing
    obtain ⟨j, job, state⟩ := Option.map_eq_some_iff.mp finishing
    rcases more with ⟨other, apart, d, there⟩ | idle
    · exact left other apart d there
    · exact idle j job state
  · have ends := endJob_jobEnds (s := withPulse lane .none (toTick b s)) .ended (by rw [jobs]; exact job)
    have taken : exec (.pulseEnd lane) s = .next (endJob c .ended (withPulse lane .none (toTick b s))) := by
      rw [exec_pulseEnd active]
      refine next_congr (if_pos ⟨?_, ?_⟩)
      · rw [outstanding_withPulse_none_iff, pulses]; exact last
      · rw [jobStateOf, jobs, job, Option.map_some, finishing]
    have left := jobEnds_left ends
    obtain ⟨⟨k, after, same, state, -, -, fired, -, -, clipped, -⟩, ring, -, -, -, -, -, -, -, pulses_after, rest⟩ := ends
    refine ⟨_, k, taken, after, state, same, clipped, fired, ring, left, ?_, ?_,
      endJob_jobEnds (s := withPulse lane .none (toTick b s)) .ended (by rw [jobs]; exact job)⟩
    · rw [pulses_after, ← pulses]; rfl
    · have e := congrArg (fun x : State => { x with pulses := (toTick b s).pulses }) rest
      exact e

/-! ## Failed line reads (R18, R99) -/

theorem freeEntry_settled {s : State} (e : EntryId) (h : s.resetting = false) : freeEntry e s = entryFreed e s := by
  rw [freeEntry, h]
  rfl

theorem setSlot_eq (i : SlotId) (st : SlotState) (s : State) :
    setSlot i st s = { s with slots := s.slots.set i { s.slots[i] with state := st } } := rfl

/-- A fetch fault of a job that has ended, or is gone, is ignored. -/
theorem fetchFault_ignored {s : State} {c : CtxId} (line : Nat) (h : ∀ j, s.jobs[c] = some j → IsEnded j) : fetchFault c line s = grant s := by
  unfold fetchFault
  cases job : s.jobs[c] with
  | none => rfl
  | some j => exact if_neg (by rw [notEnded_eq_false (h j job)]; nofun)

theorem fetchFault_jobEnds {s : State} {c : CtxId} {j : Job} (line : Nat) (job : s.jobs[c] = some j) (live : ¬ IsEnded j) :
    JobEnds (afterCut j s) (fetchFault c line s) c j (.fetchFault line) := by
  have ends : fetchFault c line s = endJob c (.fetchFault line) (afterCut j s) := by
    unfold fetchFault
    rw [job]
    dsimp only
    rw [if_pos (notEnded_of_not_isEnded live), cutUncounted_eq_afterCut]
  rw [ends]
  exact endJob_jobEnds (s := afterCut j s) _ job

section
variable {s : State} {e : EntryId} {read : LineRead} (real : read.isVoid = false) (quiet : s.resetting = false)
include real quiet

/-- The slot of a failed read, FREE again. -/
def slotFreed (e : EntryId) (i : SlotId) (s : State) : State := setSlot i .free (entryFreed e s)

theorem failRead_owned {c : CtxId} {k n : Nat} (h : s.slots[read.slot].state = .filling c k n ∨ s.slots[read.slot].state = .stale c k n) :
    failRead e read s = fetchFault c read.line (slotFreed e read.slot s) := by
  unfold failRead
  rw [freeEntry_settled e quiet, real]
  dsimp only
  rw [show (entryFreed e s).slots = s.slots from rfl]
  rcases h with h | h <;> rw [h] <;> rfl

theorem failRead_discard (h : s.slots[read.slot].state = .discard) : failRead e read s = grant (slotFreed e read.slot s) := by
  unfold failRead
  rw [freeEntry_settled e quiet, real]
  dsimp only
  rw [show (entryFreed e s).slots = s.slots from rfl, h]
  rfl

theorem failRead_other (filling : ∀ c k n, s.slots[read.slot].state ≠ .filling c k n)
    (stale : ∀ c k n, s.slots[read.slot].state ≠ .stale c k n) (discard : s.slots[read.slot].state ≠ .discard) :
    failRead e read s = entryFreed e s := by
  unfold failRead
  rw [freeEntry_settled e quiet, real]
  dsimp only
  rw [show (entryFreed e s).slots = s.slots from rfl]
  cases st : s.slots[read.slot].state with
  | filling c k n => exact absurd st (filling c k n)
  | stale c k n => exact absurd st (stale c k n)
  | discard => exact absurd st discard
  | free | empty | ready | firing => rfl

end

theorem exec_fetchError_taken {s : State} {e : EntryId} {read : LineRead} (busy : s.tracker[e] = some read)
    (early : s.clock.now ≤ read.expiry) : exec (.fetchErrorAnswer e) s = .next (failRead e read s) := by
  refine next_congr ?_
  rw [busy]
  exact if_pos early

/-- Settles O32. -/
theorem failedReadEndsJobOrFreesSlot : Obligations.FailedReadEndsJobOrFreesSlot := by
  intro s e read busy real quiet
  refine ⟨toMoment read.expiry s, toMoment_spec read.expiry s, fun cmd v w taken freed => ?_⟩
  have frame := (toMoment_spec read.expiry s).1
  obtain ⟨run, slots, jobs, still⟩ : exec cmd s = .next (failRead e read v) ∧ v.slots = s.slots ∧ v.jobs = s.jobs ∧ v.resetting = false := by
    rcases taken with ⟨rfl, early, rfl⟩ | ⟨rfl, rfl⟩
    · exact ⟨exec_fetchError_taken busy early, rfl, rfl, quiet⟩
    · have slots := congrArg State.slots frame
      have jobs := congrArg State.jobs frame
      have resetting := congrArg State.resetting frame
      exact ⟨exec_fetchExpiry busy, slots, jobs, resetting.trans quiet⟩
  obtain rfl : w = slotFreed e read.slot v := by
    rw [freed, slotFreed, setSlot_eq, show (entryFreed e v).slots = v.slots from rfl, slots]
  rw [run, ← slots]
  refine ⟨fun c k n owned => ⟨fun j job live => ⟨_, rfl, ?_⟩, fun dead => ?_⟩, fun discard => ?_, fun filling stale discard => ?_⟩
  · rw [failRead_owned real still owned]
    exact fetchFault_jobEnds (s := slotFreed e read.slot v) read.line (by rw [← job, ← jobs]; rfl) live
  · rw [failRead_owned real still owned]
    exact next_congr (fetchFault_ignored (s := slotFreed e read.slot v) read.line fun j job => dead j (by rw [← job, ← jobs]; rfl))
  · exact next_congr (failRead_discard real still discard)
  · exact next_congr (failRead_other real still filling stale discard)

end Sys2Proof.Machine
end

section
/-! SUPPORT. Proofs/Grants.lean: the grant rule, head after head, and the jobs START_JOB creates (O29, O40). -/

namespace Sys2Proof.Machine

open Sys2Proof Sys2Proof.Claims

/-! ## One grant (R26) -/

/-- The slot table after the ring of a granted job has been assigned. -/
def ringTable (c : CtxId) (depth : Nat) (s : State) : Vector Slot 32 := (assignRing c 0 ((freeSlots s).take depth) s).slots

/-- The part after a grant to the head of the wait list. -/
def grantedOne (c : CtxId) (j : Job) (rest : List CtxId) (s : State) : State :=
  { s with jobs := s.jobs.set c (some { j with state := .primed }), slots := ringTable c j.depth s, slotWait := rest }

section
variable {c : CtxId} {d : Nat} {s : State}

theorem ringTable_given {k : Nat} {i : SlotId} (below : k < d) (at_ : (freeSlots s)[k]? = some i) :
    (ringTable c d s)[i] = { s.slots[i] with state := .empty c k } := by
  obtain ⟨given, -, -⟩ := assignRing_spec c ((freeSlots s).take d) ((freeSlots_nodup s).take) 0 s
  have e := given k i (by rw [List.getElem?_take, if_pos below]; exact at_)
  rw [Nat.zero_add] at e
  exact e

theorem ringTable_kept {i : SlotId} (h : i ∉ (freeSlots s).take d) : (ringTable c d s)[i] = s.slots[i] :=
  (assignRing_spec c ((freeSlots s).take d) ((freeSlots_nodup s).take) 0 s).2.1 i h

/-- Every slot is given, with its ring index, or kept. -/
theorem ringTable_cases (c : CtxId) (d : Nat) (s : State) (i : SlotId) :
    (∃ k, k < d ∧ (freeSlots s)[k]? = some i ∧ (ringTable c d s)[i] = { s.slots[i] with state := .empty c k }) ∨
    (i ∉ (freeSlots s).take d ∧ (ringTable c d s)[i] = s.slots[i]) := by
  by_cases given : i ∈ (freeSlots s).take d
  · obtain ⟨k, at_⟩ := List.getElem?_of_mem given
    rw [List.getElem?_take] at at_
    split at at_
    · exact .inl ⟨k, ‹_›, at_, ringTable_given ‹_› at_⟩
    · cases at_
  · exact .inr ⟨given, ringTable_kept given⟩

/-- A ring that has just been given holds no READY line. -/
theorem ringTable_not_ready (ring : NoRing s c) {i : SlotId} {k : Nat} (h : ringPlace (ringTable c d s)[i].state = some (c, k)) :
    slotReady (ringTable c d s)[i].state = false := by
  rcases ringTable_cases c d s i with ⟨n, -, -, e⟩ | ⟨-, e⟩
  · rw [e]; rfl
  · rw [e] at h
    exact absurd h (ring i k)

theorem filter_not_mem_take {α : Type} [DecidableEq α] {l : List α} (h : l.Nodup) (n : Nat) :
    l.filter (fun x => decide (x ∉ l.take n)) = l.drop n := by
  have apart := List.disjoint_take_drop h (le_refl n)
  conv_lhs => rw [← List.take_append_drop n l, List.filter_append]
  rw [List.take_append_drop]
  have none : (l.take n).filter (fun x => decide (x ∉ l.take n)) = [] :=
    List.filter_eq_nil_iff.mpr fun x mem => by rw [decide_eq_false (not_not.mpr mem)]; nofun
  have all : (l.drop n).filter (fun x => decide (x ∉ l.take n)) = l.drop n :=
    List.filter_eq_self.mpr fun x mem => decide_eq_true fun early => apart early mem
  rw [none, all, List.nil_append]

/-- The FREE slots left are the later ones. -/
theorem freeSlots_of_ringTable {t : State} (h : t.slots = ringTable c d s) : freeSlots t = (freeSlots s).drop d := by
  rw [← filter_not_mem_take (freeSlots_nodup s) d]
  refine Eq.trans ?_ (List.filter_filter ..).symm
  refine List.filter_congr fun i _ => ?_
  show decide (t.slots[i].state = .free) = (decide (i ∉ (freeSlots s).take d) && decide (s.slots[i].state = .free))
  rw [h]
  rcases ringTable_cases c d s i with ⟨k, below, at_, e⟩ | ⟨kept, e⟩
  · have given : i ∈ (freeSlots s).take d := List.mem_of_getElem? (i := k) (by rw [List.getElem?_take, if_pos below]; exact at_)
    rw [e, decide_eq_false (not_not.mpr given)]
    rfl
  · rw [e, decide_eq_true kept, Bool.true_and]

end

section
variable {c : CtxId} {j : Job} {s : State} (rest : List CtxId)

/-- A grant, whole: the ring is EMPTY, so the test for arming finds nothing. -/
theorem grantTo_eq (job : s.jobs[c] = some j) (ring : NoRing s c) : grantTo c j.depth rest s = grantedOne c j rest s := by
  obtain ⟨-, -, frame⟩ := assignRing_spec c ((freeSlots s).take j.depth) ((freeSlots_nodup s).take) 0 s
  have assigned : assignRing c 0 ((freeSlots s).take j.depth) s = { s with slots := ringTable c j.depth s } := by
    have e := congrArg (fun x : State => { x with slots := ringTable c j.depth s }) frame
    exact e
  let u : State := { s with slots := ringTable c j.depth s, slotWait := rest }
  obtain ⟨k, tested, stored⟩ := armTest_stored c { j with state := .primed } u
  have unarmed : k = { j with state := .primed } := tested.2 fun arms => by
    obtain ⟨-, atleast, ready⟩ := arms
    obtain ⟨i, at_, isReady⟩ := ready 0 atleast
    have not := ringTable_not_ready (d := j.depth) ring (slotAt_some at_)
    have yes : slotReady (ringTable c j.depth s)[i].state = true := isReady
    rw [not] at yes
    cases yes
  have set : setJobState c .primed u = { u with jobs := u.jobs.set c (some { j with state := .primed }) } := modJob_some _ job
  rw [grantTo, assigned]
  show armTest c (setJobState c .primed u) = _
  rw [set, stored, unarmed]
  rfl

theorem freeCount_grantedOne : freeCount (grantedOne c j rest s) = freeCount s - j.depth := by
  have left : freeSlots (grantedOne c j rest s) = (freeSlots s).drop j.depth :=
    freeSlots_of_ringTable (c := c) (t := grantedOne c j rest s) rfl
  rw [freeCount, left, List.length_drop, freeCount]

/-- With nobody else waiting, or a next head that does not fit, a grant is the last. -/
theorem grant_one (wait : s.slotWait = c :: rest) (job : s.jobs[c] = some j) (fits : j.depth ≤ freeCount s) (ring : NoRing s c)
    (apart : c ∉ rest) (last : rest = [] ∨ ∃ d more m, rest = d :: more ∧ s.jobs[d] = some m ∧ freeCount s - j.depth < m.depth) :
    grant s = grantedOne c j rest s := by
  rw [grant_fits s wait job fits, grantTo_eq rest job ring]
  rcases last with rfl | ⟨d, more, m, rfl, next, short⟩
  · exact grant_empty _ rfl
  · have other : d ≠ c := fun same => apart (same ▸ List.mem_cons_self)
    exact grant_short (c := d) (j := m) _ rfl ((jobs_set_ne _ _ other).trans next) (by rw [freeCount_grantedOne]; exact short)

end

/-- Settles O29. -/
theorem grantServesHeadWithLowestSlots : Obligations.GrantServesHeadWithLowestSlots := by
  refine fun s => ⟨fun none => next_congr (grant_empty s none), fun c rest j wait job =>
    ⟨fun short => next_congr (grant_short s wait job short), fun fits apart ring => ?_, fun fits ring => ?_⟩⟩
  · have grants : grant s = grant (grantedOne c j rest s) := by rw [grant_fits s wait job fits, grantTo_eq rest job ring]
    obtain ⟨-, ⟨front, suffix⟩, jobs, -, -, slots⟩ := grant_grant (grantedOne c j rest s)
    refine ⟨grant s, rfl, ?_, ?_, fun k i below at_ => ?_, fun last => ?_⟩
    · rw [grants, jobs c apart]
      exact jobs_set_self c _ s.jobs
    · rw [grants]
      intro still
      have e : rest = front ++ (grant (grantedOne c j rest s)).slotWait := suffix
      exact apart (e ▸ List.mem_append_right _ still)
    · have given : (grantedOne c j rest s).slots[i] = { s.slots[i] with state := .empty c k } := ringTable_given below at_
      rw [grants]
      rcases slots i with kept | ⟨free, -⟩
      · rw [kept, given]
      · rw [given] at free
        cases free
    · rw [grant_one rest wait job fits ring apart last]
      exact ⟨rfl, freeCount_grantedOne rest, fun i kept => ringTable_kept kept, rfl, fun d other => jobs_set_ne _ _ other⟩
  · refine ⟨ringTable c j.depth s, fun k i below at_ => ringTable_given below at_, fun i kept => ringTable_kept kept, next_congr ?_⟩
    rw [grant_fits s wait job fits, grantTo_eq rest job ring]
    rfl

/-! ## START_JOB (R2, R134 to R136) -/

section
variable {s : State} {c : CtxId} (tag : Word) {p : JobParams} (extents : List Extent)

/-- The part once the job has been filled in and stands at the back of its group's list. -/
def filled (c : CtxId) (tag : Word) (p : JobParams) (extents : List Extent) (s : State) : State :=
  joinList c p.group (fillContext c (newJob tag p extents) s)

/-- The job has joined the wait list. -/
def waitingFor (c : CtxId) (tag : Word) (p : JobParams) (extents : List Extent) (s : State) : State :=
  { filled c tag p extents s with
    jobs := s.jobs.set c (some { newJob tag p extents with state := .waiting }), slotWait := s.slotWait ++ [c] }

theorem joinWait_filled : joinWait c (filled c tag p extents s) = waitingFor c tag p extents s := by
  have job : (setWait ((filled c tag p extents s).slotWait ++ [c]) (filled c tag p extents s)).jobs[c] = some (newJob tag p extents) :=
    jobs_set_self c _ s.jobs
  rw [joinWait, setJobState, modJob_some _ job]
  show ({ setWait ((filled c tag p extents s).slotWait ++ [c]) (filled c tag p extents s) with
    jobs := (s.jobs.set c (some (newJob tag p extents))).set c (some { newJob tag p extents with state := .waiting }) } : State) = _
  rw [jobs_set_set]
  rfl

theorem createJob_behind (h : 2 ≤ s.lists[p.group].length) : createJob c tag p extents s = filled c tag p extents s :=
  if_neg (by omega)

theorem createJob_front (h : s.lists[p.group].length < 2) : createJob c tag p extents s = grant (waitingFor c tag p extents s) := by
  rw [← joinWait_filled]
  exact if_pos h

theorem newJob_new (state : JobState) : NewJob tag p extents { newJob tag p extents with state := state } :=
  ⟨rfl, rfl, rfl, rfl, rfl, rfl, rfl, rfl, rfl, rfl, rfl, rfl, rfl, rfl, rfl, rfl, rfl, rfl⟩

/-- A creation at the front, the grant rule as it comes out: the job is granted its ring, or waits. -/
theorem createJob_granted (h : s.lists[p.group].length < 2) (none : s.slotWait = []) (ring : NoRing s c) (fits : p.depth ≤ freeCount s) :
    createJob c tag p extents s =
      grantedOne c { newJob tag p extents with state := .waiting } [] (waitingFor c tag p extents s) := by
  rw [createJob_front tag extents h]
  refine grant_one (s := waitingFor c tag p extents s) [] ?_ (jobs_set_self c _ s.jobs) fits ring List.not_mem_nil (.inl rfl)
  show s.slotWait ++ [c] = _
  rw [none]
  rfl

theorem createJob_waits (h : s.lists[p.group].length < 2) (free : s.jobs[c] = none)
    (short : s.slotWait = [] ∧ freeCount s < p.depth ∨ ∃ head rest m, s.slotWait = head :: rest ∧ s.jobs[head] = some m ∧
      freeCount s < m.depth) : createJob c tag p extents s = waitingFor c tag p extents s := by
  rw [createJob_front tag extents h]
  rcases short with ⟨none, few⟩ | ⟨head, rest, m, wait, job, few⟩
  · refine grant_short (rest := []) (waitingFor c tag p extents s) ?_ (jobs_set_self c _ s.jobs) few
    show s.slotWait ++ [c] = _
    rw [none]
    rfl
  · have other : head ≠ c := fun same => by rw [same, free] at job; cases job
    refine grant_short (rest := rest ++ [c]) (j := m) (waitingFor c tag p extents s) ?_ ((jobs_set_ne _ _ other).trans job) few
    show s.slotWait ++ [c] = _
    rw [wait]
    rfl

/-- The job of a creation. -/
theorem createJob_job : ∃ state, (createJob c tag p extents s).jobs[c] = some { newJob tag p extents with state := state } := by
  by_cases h : s.lists[p.group].length < 2
  · rw [createJob_front tag extents h]
    exact (grant_grant (waitingFor c tag p extents s)).2.2.2.1 c { newJob tag p extents with state := .waiting }
      (jobs_set_self c _ s.jobs)
  · rw [createJob_behind tag extents (Nat.not_lt.mp h)]
    exact ⟨_, jobs_set_self c _ s.jobs⟩

end

/-- A creation and its OK, whole. -/
theorem ended_createJob_created {s : State} {c : CtxId} (r : SubRing) (id : Short) (tag : Word) (p : JobParams) (extents : List Extent)
    (free : s.jobs[c] = none) (lowest : ∀ d : CtxId, d < c → s.jobs[d] ≠ none) :
    Created s (Ended r id .ok (BitVec.ofNat 32 c.val) (createJob c tag p extents s)) r id tag p extents c := by
  obtain ⟨state, job⟩ := createJob_job (c := c) tag extents (s := s) (p := p)
  have rest := createJob_rest c tag p extents s
  have holding := congrArg State.holding rest
  have cp := congrArg State.cp rest
  have run := congrArg State.run rest
  have one {k : Job} {u : State} (e : createJob c tag p extents s = u) (h : u.jobs[c] = some k) :
      ({ newJob tag p extents with state := state } : Job) = k := by
    rw [e, h] at job
    exact (Option.some.inj job).symm
  refine ⟨free, lowest, ⟨_, job, newJob_new tag extents state, fun long => ?_, fun short none ring fits => ?_, fun short few => ?_⟩,
    fun g => ?_, ?_, ?_, ?_⟩
  · have e := createJob_behind (c := c) tag extents long
    have same := one e (jobs_set_self c _ s.jobs)
    refine ⟨by rw [same]; rfl, ?_⟩
    show (createJob c tag p extents s).slotWait = _ ∧ (createJob c tag p extents s).slots = _ ∧
      ∀ d : CtxId, d ≠ c → (createJob c tag p extents s).jobs[d] = _
    rw [e]
    exact ⟨rfl, rfl, fun d other => jobs_set_ne _ _ other⟩
  · have e := createJob_granted (c := c) tag extents short none ring fits
    have same := one e (jobs_set_self c _ _)
    refine ⟨by rw [same], ?_⟩
    show (createJob c tag p extents s).slotWait = _ ∧ (∀ d : CtxId, d ≠ c → (createJob c tag p extents s).jobs[d] = _) ∧
      ∀ i : SlotId, (createJob c tag p extents s).slots[i].levels = _ ∧
        (∀ k, k < p.depth → _ → (createJob c tag p extents s).slots[i].state = _) ∧ (_ → (createJob c tag p extents s).slots[i] = _)
    rw [e]
    refine ⟨rfl, fun d other => (jobs_set_ne _ _ other).trans (jobs_set_ne _ _ other), fun i => ⟨?_, fun k below at_ => ?_, fun kept => ?_⟩⟩
    · rcases ringTable_cases c p.depth (waitingFor c tag p extents s) i with ⟨_, _, _, e⟩ | ⟨_, e⟩ <;>
        exact (congrArg Slot.levels e :)
    · exact congrArg Slot.state (ringTable_given (s := waitingFor c tag p extents s) below at_)
    · exact ringTable_kept (s := waitingFor c tag p extents s) kept
  · have e := createJob_waits (c := c) tag extents short free few
    have same := one e (jobs_set_self c _ s.jobs)
    refine ⟨by rw [same], ?_⟩
    show (createJob c tag p extents s).slotWait = _ ∧ (createJob c tag p extents s).slots = _ ∧
      ∀ d : CtxId, d ≠ c → (createJob c tag p extents s).jobs[d] = _
    rw [e]
    exact ⟨rfl, rfl, fun d other => jobs_set_ne _ _ other⟩
  · exact createJob_lists c tag p extents s g
  · exact congrArg (· ++ [.response id .ok (BitVec.ofNat 32 c.val)]) holding
  · show ({ consumedCp r (createJob c tag p extents s).cp with
            reserved := false, state := if (createJob c tag p extents s).run then .reserving else .stopped } : CommandProcessor) = _
    have e : (createJob c tag p extents s).cp = s.cp := cp
    have e' : (createJob c tag p extents s).run = s.run := run
    rw [e, e']
  · have e := congrArg (fun x : State => { x with holding := s.holding, cp := s.cp }) rest
    exact e

/-- Settles O40. -/
theorem startJobCreatesJob : Obligations.StartJobCreatesJob := by
  refine ⟨fun s r id tag f p read range params fits none => ?_, fun s r id tag p data read => ⟨exec_table_length read, fun length =>
    ⟨fun bad => ?_, fun good free => ?_⟩⟩⟩
  · obtain ⟨c, found, free, lowest⟩ := freeContext_exists fits.2.2.1
    refine ⟨_, c, ?_, ended_createJob_created r id tag p [] free lowest⟩
    refine (next_onRecord _ read).trans (next_congr ?_)
    have count : p.extentCount = 0 := by rw [params.2.2.2.2.2.2.2, none]; rfl
    rw [startJobTaken, jobParams_some range params]
    refine (if_pos (startJobStatus_ok fits)).trans ((if_pos count).trans ?_)
    rw [startAtOnce, found, ← respond_eq_ended]
  · rw [exec_table_taken read length, applyTable, extentTable_none bad, respond_eq_ended]
  · obtain ⟨c, found, none, lowest⟩ := freeContext_exists free
    refine ⟨_, c, ?_, ended_createJob_created r id tag p (entriesOfTable data p.extentCount) none lowest⟩
    rw [exec_table_taken read length, applyTable, extentTable_some good, found, ← respond_eq_ended]

end Sys2Proof.Machine
end

section
/-! SUPPORT. Proofs/LineFetch.lean: the choice and issue of line reads, and the data that answer them (O30, O31). -/

namespace Sys2Proof.Machine

open Sys2Proof Sys2Proof.Claims

/-! ## Offered jobs (R28) -/

theorem offeredSlot_iff {s : State} {c : CtxId} {i : SlotId} : offeredSlot s c = some i ↔ ∃ j, Offers s c j i := by
  unfold offeredSlot Offers
  cases job : s.jobs[c] with
  | none => exact iff_of_false nofun fun ⟨_, e, _⟩ => by cases e
  | some j =>
    dsimp only
    by_cases may : fetchingState j.state = true ∧ j.cursor < j.supplied ∧ j.cursor < j.firePos + j.depth
    · rw [if_pos may]
      cases at_ : slotAt s c (j.cursor % j.depth) with
      | none =>
        refine iff_of_false nofun fun offers => ?_
        obtain ⟨k, same, -, -, -, found, -⟩ := offers
        cases same
        rw [at_] at found
        cases found
      | some k =>
        dsimp only
        constructor
        · intro offered
          split at offered
          · cases offered
            exact ⟨j, rfl, of_decide_eq_true may.1, may.2.1, may.2.2, at_, ‹_›⟩
          · cases offered
        · rintro ⟨m, same, -, -, -, found, empty⟩
          cases same
          obtain rfl : k = i := Option.some.inj (at_.symm.trans found)
          exact if_pos empty
    · rw [if_neg may]
      refine iff_of_false nofun fun offers => ?_
      obtain ⟨k, same, state, more, near, -⟩ := offers
      cases same
      exact may ⟨decide_eq_true state, more, near⟩

theorem offeredInClass_iff {s : State} {c : CtxId} {first : Bool} :
    offeredInClass s first c = true ↔ ∃ j i, Offers s c j i ∧ (FirstClass j ↔ first = true) := by
  unfold offeredInClass jobStateOf
  rw [Bool.and_eq_true, Option.isSome_iff_exists]
  have firing (j : Job) : decide (isFiringState j.state = first) = true ↔ (FirstClass j ↔ first = true) := by
    rw [decide_eq_true_iff, ← isFiringState_iff, Bool.eq_iff_iff]
  constructor
  · rintro ⟨⟨i, offered⟩, cls⟩
    obtain ⟨j, offers⟩ := offeredSlot_iff.mp offered
    rw [offers.1] at cls
    exact ⟨j, i, offers, (firing j).mp cls⟩
  · rintro ⟨j, i, offers, cls⟩
    refine ⟨⟨i, offeredSlot_iff.mpr ⟨j, offers⟩⟩, ?_⟩
    rw [offers.1]
    exact (firing j).mpr cls

/-! ## The job that is served (R95) -/

/-- The groups after the last-served one, in the order of their turns. -/
theorem turnOf_after (s : State) : turnOf s (s.lastServed + 1) = 0 ∧ turnOf s (s.lastServed + 2) = 1 ∧
    turnOf s (s.lastServed + 3) = 2 ∧ turnOf s (s.lastServed + 4) = 3 := by
  have one : (s.lastServed + 1).val = (s.lastServed.val + 1) % 4 := Fin.val_add ..
  have two : (s.lastServed + 2).val = (s.lastServed.val + 2) % 4 := Fin.val_add ..
  have three : (s.lastServed + 3).val = (s.lastServed.val + 3) % 4 := Fin.val_add ..
  have four : (s.lastServed + 4).val = (s.lastServed.val + 4 % 4) % 4 := Fin.val_add ..
  simp only [turnOf, one, two, three, four]
  omega

theorem eq_lastServed_add (s : State) (g : GroupId) :
    g = s.lastServed + 1 ∨ g = s.lastServed + 2 ∨ g = s.lastServed + 3 ∨ g = s.lastServed + 4 := by
  have one : (s.lastServed + 1).val = (s.lastServed.val + 1) % 4 := Fin.val_add ..
  have two : (s.lastServed + 2).val = (s.lastServed.val + 2) % 4 := Fin.val_add ..
  have three : (s.lastServed + 3).val = (s.lastServed.val + 3) % 4 := Fin.val_add ..
  have four : (s.lastServed + 4).val = (s.lastServed.val + 4 % 4) % 4 := Fin.val_add ..
  simp only [Fin.ext_iff, one, two, three, four]
  omega

/-- The first of the groups after the last-served one that has a choice is the one whose turn comes first. -/
theorem findSome_groupsAfter {s : State} {f : GroupId → Option CtxId} {g : GroupId} {c : CtxId} (found : f g = some c)
    (before : ∀ h, turnOf s h < turnOf s g → f h = none) : (groupsAfter s.lastServed).findSome? f = some c := by
  obtain ⟨one, two, three, four⟩ := turnOf_after s
  have first (h : turnOf s g ≠ 0) : f (s.lastServed + 1) = none := before _ (by omega)
  have second (h : 1 < turnOf s g) : f (s.lastServed + 2) = none := before _ (by omega)
  have third (h : 2 < turnOf s g) : f (s.lastServed + 3) = none := before _ (by omega)
  rcases eq_lastServed_add s g with rfl | rfl | rfl | rfl
  · simp only [groupsAfter, List.findSome?_cons, found]
  · simp only [groupsAfter, List.findSome?_cons, found, first (by omega)]
  · simp only [groupsAfter, List.findSome?_cons, found, first (by omega), second (by omega)]
  · simp only [groupsAfter, List.findSome?_cons, found, first (by omega), second (by omega), third (by omega)]

section
variable {s : State} {g : GroupId} {c : CtxId} {j : Job} {i : SlotId}

theorem chooseInClass_served (offers : Offers s c j i) (served : IsServed s g c j) :
    chooseInClass s (isFiringState j.state) = some c := by
  obtain ⟨⟨before, after, list, front⟩, turns⟩ := served
  have cls {m : Job} : (FirstClass m ↔ isFiringState j.state = true) ↔ (FirstClass m ↔ FirstClass j) := by rw [isFiringState_iff]
  refine findSome_groupsAfter (g := g) ?_ fun h sooner => ?_
  · rw [list, List.find?_append]
    have none : before.find? (offeredInClass s (isFiringState j.state)) = none :=
      List.find?_eq_none.mpr fun d mem offered => by
        obtain ⟨m, k, offer, same⟩ := offeredInClass_iff.mp offered
        exact front d mem m k offer (cls.mp same)
    have here : offeredInClass s (isFiringState j.state) c = true := offeredInClass_iff.mpr ⟨j, i, offers, cls.mpr Iff.rfl⟩
    rw [none, List.find?_cons_of_pos here]
    rfl
  · refine List.find?_eq_none.mpr fun d mem offered => ?_
    obtain ⟨m, k, offer, same⟩ := offeredInClass_iff.mp offered
    exact absurd ((turns h d mem m k offer).2 (cls.mp same)) (Nat.not_le.mpr sooner)

theorem chooseInClass_none {first : Bool} (h : ∀ g : GroupId, ∀ d ∈ s.lists[g], ∀ m i, Offers s d m i → ¬ (FirstClass m ↔ first = true)) :
    chooseInClass s first = none := by
  refine List.findSome?_eq_none_iff.mpr fun g _ => List.find?_eq_none.mpr fun d mem offered => ?_
  obtain ⟨m, k, offer, same⟩ := offeredInClass_iff.mp offered
  exact h g d mem m k offer same

theorem chooseJob_served (offers : Offers s c j i) (served : IsServed s g c j) : chooseJob s = some c := by
  have chosen := chooseInClass_served offers served
  unfold chooseJob
  by_cases first : FirstClass j
  · rw [(isFiringState_iff j).mpr first] at chosen
    rw [chosen]
    rfl
  · rw [Bool.eq_false_iff.mpr (mt (isFiringState_iff j).mp first)] at chosen
    have none : chooseInClass s true = none :=
      chooseInClass_none fun h d mem m k offer same => first ((served.2 h d mem m k offer).1 (same.mpr rfl))
    rw [none, chosen]
    rfl

end

theorem chooseJob_none {s : State} (h : ∀ g : GroupId, ∀ c ∈ s.lists[g], ∀ j i, ¬ Offers s c j i) : chooseJob s = none := by
  unfold chooseJob
  rw [chooseInClass_none fun g d mem m i offer => absurd offer (h g d mem m i),
    chooseInClass_none fun g d mem m i offer => absurd offer (h g d mem m i)]
  rfl

theorem freeTracker_none {s : State} (h : ∀ e : EntryId, s.tracker[e] ≠ none) : freeTracker s = none :=
  List.find?_eq_none.mpr fun e _ free => h e (Option.isNone_iff_eq_none.mp free)

theorem freeTracker_some {s : State} {e : EntryId} (free : s.tracker[e] = none) (busy : ∀ d : EntryId, d < e → s.tracker[d] ≠ none) :
    freeTracker s = some e := by
  refine List.find?_eq_some_iff_getElem.mpr ⟨Option.isNone_iff_eq_none.mpr free, e.val, by simp, by simp, fun k below => ?_⟩
  have held := busy ⟨k, by omega⟩ below
  simpa [Option.isSome_iff_ne_none] using held

theorem issueDecision_none {s : State} (h : freeTracker s = none ∨ chooseJob s = none) : issueDecision s = s := by
  unfold issueDecision
  split
  · rename_i entry chosen
    rcases h with none | none
    · rw [none] at entry; cases entry
    · rw [none] at chosen; cases chosen
  · rfl

theorem issueDecision_some {s : State} {e : EntryId} {c : CtxId} {j : Job} {i : SlotId} (entry : freeTracker s = some e)
    (chosen : chooseJob s = some c) (offers : Offers s c j i) : issueDecision s = issueLineRead e c j i s := by
  simp only [issueDecision, entry, chosen, offers.1, offeredSlot_iff.mpr ⟨j, offers⟩]

/-- Settles O30. -/
theorem fetchIssueReadsCursorLine : Obligations.FetchIssueReadsCursorLine := by
  refine fun s => ⟨fun h => next_congr (issueDecision_none (h.imp freeTracker_none chooseJob_none)),
    fun e g c j i x free busy offers served group line => next_congr ?_⟩
  subst group
  rw [issueDecision_some (freeTracker_some free busy) (chooseJob_served offers served) offers, issueLineRead]
  have address : lineAddress j j.cursor = x.base + BitVec.ofNat 64 ((j.cursor - x.firstLine) * x.stride.toNat) := by
    rw [lineAddress, show j.extents.find? (holdsLine j.cursor) = some x from line]
  have expiry : readExpiry s = s.clock.now + s.clock.mhz * fetchLimitMicros s.fetchLimit := by rw [readExpiry, periods, Nat.mul_comm]
  rw [modJob_some (j := j), address, lineRead, expiry]
  · simp only [setLastServed, setEntry, setSlot, emit, vmod]
    rfl
  · exact offers.1

/-! ## Settling a line (R102 to R104) -/

theorem satAdd_eq (x : Word) (n : Nat) : satAdd x n = BitVec.ofNat 32 (min 4294967295 (x.toNat + n)) := by
  unfold satAdd
  split
  · rw [Nat.min_eq_right ‹_›]
  · rw [Nat.min_eq_left (by omega)]
    rfl

theorem satAdd_toNat (x : Word) (n : Nat) : (satAdd x n).toNat = min 4294967295 (x.toNat + n) := by
  rw [satAdd_eq, BitVec.toNat_ofNat, Nat.mod_eq_of_lt (by omega)]

theorem satAdd_zero (x : Word) : satAdd x 0 = x := by
  have bound := x.isLt
  exact BitVec.eq_of_toNat_eq (by rw [satAdd_toNat]; omega)

theorem satAdd_satAdd (x : Word) (m n : Nat) : satAdd (satAdd x m) n = satAdd x (m + n) :=
  BitVec.eq_of_toNat_eq (by simp only [satAdd_toNat]; omega)

/-- The job after these extents have retired from its head, with this much room for their notices. -/
def retiredJob (es : List Extent) (room : Nat) (j : Job) : Job :=
  { j with
    extents := es.dropWhile wholly
    retired := j.retired + (es.takeWhile wholly).length
    noticesLost := satAdd j.noticesLost ((noticesOf j.tag j.retired (es.takeWhile wholly)).length - room) }

theorem wholly_iff (e : Extent) : wholly e = true ↔ e.settled = e.lines.toNat := decide_eq_true_iff

theorem retiredJob_whole {e : Extent} {es : List Extent} {room : Nat} {j : Job} (h : e.settled ≠ e.lines.toNat) (whole : j.extents = e :: es) :
    retiredJob (e :: es) room j = j := by
  have no : ¬ wholly e = true := mt (wholly_iff e).mp h
  obtain ⟨⟩ := j
  simp only [retiredJob, List.dropWhile_cons_of_neg no, List.takeWhile_cons_of_neg no, List.length_nil, noticesOf, Nat.zero_sub, satAdd_zero,
    Nat.add_zero] at whole ⊢
  rw [whole]

/-- The head extent retires without a notice. -/
theorem retiredJob_quiet {e : Extent} {es : List Extent} {room : Nat} {j : Job} (head : wholly e = true) (quiet : e.notify = false) :
    retiredJob (e :: es) room j = retiredJob es room { j with extents := es, retired := j.retired + 1 } := by
  simp only [retiredJob, List.dropWhile_cons_of_pos head, List.takeWhile_cons_of_pos head, List.length_cons, noticesOf, quiet,
    Nat.add_assoc, Nat.add_comm 1, Bool.false_eq_true, if_false]

/-- The head extent retires, and its notice takes an entry. -/
theorem retiredJob_placed {e : Extent} {es : List Extent} {room : Nat} {j : Job} (head : wholly e = true) (notify : e.notify = true) :
    retiredJob (e :: es) (room + 1) j = retiredJob es room { j with extents := es, retired := j.retired + 1 } := by
  simp only [retiredJob, List.dropWhile_cons_of_pos head, List.takeWhile_cons_of_pos head, List.length_cons, noticesOf, notify,
    Nat.add_assoc, Nat.add_comm 1, if_true, Nat.add_sub_add_right]

/-- The head extent retires, and its notice is lost. -/
theorem retiredJob_lost {e : Extent} {es : List Extent} {j : Job} (head : wholly e = true) (notify : e.notify = true) :
    retiredJob (e :: es) 0 j =
      retiredJob es 0 { j with extents := es, retired := j.retired + 1, noticesLost := satInc j.noticesLost } := by
  simp only [retiredJob, List.dropWhile_cons_of_pos head, List.takeWhile_cons_of_pos head, List.length_cons, noticesOf, notify,
    Nat.add_assoc, Nat.add_comm 1, if_true, Nat.sub_zero, satInc, satAdd_satAdd]

theorem retireHead_quiet {c : CtxId} {e : Extent} {es : List Extent} {s : State} {j : Job} (job : s.jobs[c] = some j)
    (quiet : e.notify = false) :
    retireHead c e es s = { s with jobs := s.jobs.set c (some { j with extents := es, retired := j.retired + 1 }) } := by
  unfold retireHead
  rw [job]
  dsimp only
  rw [quiet, modJob_some _ job]
  rfl

theorem retireHead_notify {c : CtxId} {e : Extent} {es : List Extent} {s : State} {j : Job} (job : s.jobs[c] = some j)
    (notify : e.notify = true) :
    retireHead c e es s = offerNotice c (.extentDone j.tag j.retired)
      { s with jobs := s.jobs.set c (some { j with extents := es, retired := j.retired + 1 }) } := by
  unfold retireHead
  rw [job]
  dsimp only
  rw [notify, modJob_some _ job]
  rfl

/-- A notice is placed, or counted as lost (R153). -/
theorem offerNotice_placed {s : State} (c : CtxId) (r : CompRecord) (room : roomOf s ≠ 0) :
    offerNotice c r s = { s with holding := s.holding ++ [r] } := if_pos (unreservedFree_of_room room)

theorem offerNotice_lost {c : CtxId} {s : State} {j : Job} (r : CompRecord) (job : s.jobs[c] = some j) (full : roomOf s = 0) :
    offerNotice c r s = { s with jobs := s.jobs.set c (some { j with noticesLost := satInc j.noticesLost }) } := by
  rw [offerNotice, if_neg (by rw [unreservedFree_of_full full]; nofun), modJob_some _ job]

theorem retireHead_placed {c : CtxId} {e : Extent} {es : List Extent} {s : State} {j : Job} (job : s.jobs[c] = some j)
    (notify : e.notify = true) (room : roomOf s ≠ 0) :
    retireHead c e es s = { s with
      jobs := s.jobs.set c (some { j with extents := es, retired := j.retired + 1 })
      holding := s.holding ++ [.extentDone j.tag j.retired] } :=
  (retireHead_notify job notify).trans (offerNotice_placed c _ room)

theorem retireHead_lost {c : CtxId} {e : Extent} {es : List Extent} {s : State} {j : Job} (job : s.jobs[c] = some j)
    (notify : e.notify = true) (full : roomOf s = 0) :
    retireHead c e es s = { s with
      jobs := s.jobs.set c (some { j with extents := es, retired := j.retired + 1, noticesLost := satInc j.noticesLost }) } := by
  rw [retireHead_notify job notify, offerNotice_lost (j := { j with extents := es, retired := j.retired + 1 })]
  · rw [jobs_set_set]
  · exact jobs_set_self c _ s.jobs
  · exact full

theorem jobs_set_same {c : CtxId} {j : Job} {s : State} (job : s.jobs[c] = some j) : s.jobs.set c (some j) = s.jobs := by
  rw [← job]
  simp

/-- A job stored as it is, and no notice. -/
theorem settled_nothing {c : CtxId} {j : Job} {s : State} (job : s.jobs[c] = some j) (n : Nat) :
    s = { s with jobs := s.jobs.set c (some j), holding := s.holding ++ ([] : List CompRecord).take n } := by
  rw [jobs_set_same job, List.take_nil, List.append_nil]

/-- Wholly settled extents retire from the head, each with its notice, placed while there is room. -/
theorem retireFrom_eq {c : CtxId} (es : List Extent) {s : State} {j : Job} (job : s.jobs[c] = some j) (whole : j.extents = es) :
    retireFrom c es s = { s with
      jobs := s.jobs.set c (some (retiredJob es (roomOf s) j))
      holding := s.holding ++ (noticesOf j.tag j.retired (es.takeWhile wholly)).take (roomOf s) } := by
  induction es generalizing s j with
  | nil =>
    have same : retiredJob [] (roomOf s) j = j := by
      obtain ⟨⟩ := j
      simp only [retiredJob, List.dropWhile_nil, List.takeWhile_nil, List.length_nil, noticesOf, Nat.zero_sub, satAdd_zero, Nat.add_zero] at whole ⊢
      rw [whole]
    rw [same]
    exact settled_nothing job _
  | cons e es ih =>
    by_cases settled : e.settled = e.lines.toNat
    · have head := (wholly_iff e).mpr settled
      rw [retireFrom, if_pos settled]
      cases notify : e.notify with
      | false =>
        rw [retireHead_quiet job notify]
        refine (ih (jobs_set_self c _ s.jobs) rfl).trans ?_
        rw [jobs_set_set, retiredJob_quiet head notify, List.takeWhile_cons_of_pos head, noticesOf, notify]
        rfl
      | true =>
        rw [List.takeWhile_cons_of_pos head, noticesOf, if_pos notify]
        cases room : roomOf s with
        | zero =>
          rw [retireHead_lost job notify room]
          refine (ih (jobs_set_self c _ s.jobs) rfl).trans ?_
          have full : roomOf { s with jobs := s.jobs.set c (some { j with extents := es, retired := j.retired + 1,
                                                                          noticesLost := satInc j.noticesLost }) } = 0 := room
          rw [full, jobs_set_set, retiredJob_lost head notify, List.take_zero, List.take_zero]
        | succ n =>
          rw [retireHead_placed job notify (by omega)]
          refine (ih (jobs_set_self c _ s.jobs) rfl).trans ?_
          have left : roomOf { s with jobs := s.jobs.set c (some { j with extents := es, retired := j.retired + 1 }),
                                      holding := s.holding ++ [.extentDone j.tag j.retired] } = n := by
            unfold roomOf at room ⊢
            dsimp only
            rw [List.length_append, List.length_singleton]
            omega
          rw [left, jobs_set_set, retiredJob_placed head notify, List.take_succ_cons, List.append_assoc]
          rfl
    · rw [retireFrom, if_neg settled, retiredJob_whole settled whole, List.takeWhile_cons_of_neg (mt (wholly_iff e).mp settled)]
      exact settled_nothing job _

/-- A line settled in the job of a live context. -/
theorem settleLine_eq {c : CtxId} {s : State} {j : Job} (n : Nat) (job : s.jobs[c] = some j) :
    settleLine c n s = { s with
      jobs := s.jobs.set c (some (settledJob n (roomOf s) j)), holding := s.holding ++ settledNotices n (roomOf s) j } := by
  have settled : (j.extents.map fun e => if holdsLine n e then { e with settled := e.settled + 1 } else e) = settledIn n j.extents :=
    List.map_congr_left fun e _ => by simp only [holdsLine, decide_eq_true_eq]
  unfold settleLine
  rw [job]
  dsimp only
  rw [settled, modJob_some _ job]
  refine (retireFrom_eq (s := { s with jobs := s.jobs.set c (some { j with extents := settledIn n j.extents }) }) _
    (jobs_set_self c _ s.jobs) rfl).trans ?_
  rw [jobs_set_set, retiredJob, satAdd_eq]
  rfl

/-! ## Data answers (R29, R30, R98) -/

theorem levelAt_eq (data : List Byte) (k : Nat) : levelAt data k = (data.getD (k / 2) 0).extractLsb' (4 * (k % 2)) 4 := by
  unfold levelAt byteAt
  rcases Nat.mod_two_eq_zero_or_one k with e | e
  · rw [e, if_pos rfl]
  · rw [e, if_neg nofun]

theorem jobLineSize_eq {s : State} {c : CtxId} {j : Job} (job : s.jobs[c] = some j) :
    jobLineSize s c = (s.configs[j.group].laneCount.toNat + 1) / 2 := by
  unfold jobLineSize
  rw [job]
  rfl

section
variable {s : State} {e : EntryId} {read : LineRead} (data : List Byte) (live : LiveRead s e read)
include live

theorem exec_fetchData_live : exec (.fetchDataAnswer e data) s = takeData e read data s := by
  obtain ⟨busy, early, -, -⟩ := live
  show execFetchDataAnswer e data s = _
  simp only [execFetchDataAnswer, busy, if_pos early]

theorem takeData_filling {c : CtxId} {k n : Nat} {j : Job} (filling : s.slots[read.slot].state = .filling c k n) (job : s.jobs[c] = some j) :
    takeData e read data s = if data.length = (s.configs[j.group].laneCount.toNat + 1) / 2
      then .next (fillSlot read.slot c k n data (entryFreed e s)) else .fault .answerLength := by
  obtain ⟨-, -, real, quiet⟩ := live
  have slots : (entryFreed e s).slots = s.slots := rfl
  have size : jobLineSize (entryFreed e s) c = (s.configs[j.group].laneCount.toNat + 1) / 2 := jobLineSize_eq (s := entryFreed e s) job
  simp only [takeData, freeEntry_settled e quiet, real, Bool.false_eq_true, if_false, slots, filling, size]

theorem takeData_stale {c : CtxId} {k n : Nat} (stale : s.slots[read.slot].state = .stale c k n) :
    takeData e read data s = .next (settleLine c n (setSlot read.slot (.empty c k) (entryFreed e s))) := by
  obtain ⟨-, -, real, quiet⟩ := live
  have slots : (entryFreed e s).slots = s.slots := rfl
  simp only [takeData, freeEntry_settled e quiet, real, Bool.false_eq_true, if_false, slots, stale]

theorem takeData_discard (discard : s.slots[read.slot].state = .discard) :
    takeData e read data s = .next (grant (slotFreed e read.slot s)) := by
  obtain ⟨-, -, real, quiet⟩ := live
  have slots : (entryFreed e s).slots = s.slots := rfl
  simp only [takeData, freeEntry_settled e quiet, real, Bool.false_eq_true, if_false, slots, discard, slotFreed]

theorem takeData_other (filling : ∀ c k n, s.slots[read.slot].state ≠ .filling c k n)
    (stale : ∀ c k n, s.slots[read.slot].state ≠ .stale c k n) (discard : s.slots[read.slot].state ≠ .discard) :
    takeData e read data s = .next (entryFreed e s) := by
  obtain ⟨-, -, real, quiet⟩ := live
  have slots : (entryFreed e s).slots = s.slots := rfl
  simp only [takeData, freeEntry_settled e quiet, real, Bool.false_eq_true, if_false, slots]
  cases state : s.slots[read.slot].state with
  | filling c k n => exact absurd state (filling c k n)
  | stale c k n => exact absurd state (stale c k n)
  | discard => exact absurd state discard
  | free | empty | ready | firing => rfl

end

/-- A FILLING slot takes its line: READY with the line's levels, the line settled, the owner tested for arming. -/
theorem fillSlot_eq {s : State} {c : CtxId} {j : Job} (i : SlotId) (k n : Nat) (data : List Byte) (job : s.jobs[c] = some j) :
    ∃ m t, fillSlot i c k n data s = t ∧ ArmTested t c (settledJob n (roomOf s) j) m ∧
      t = { writeSlot i (.ready c k n) data s with
            jobs := s.jobs.set c (some m), holding := s.holding ++ settledNotices n (roomOf s) j } := by
  obtain ⟨m, tested, stored⟩ := armTest_stored c (settledJob n (roomOf s) j)
    { writeSlot i (.ready c k n) data s with holding := s.holding ++ settledNotices n (roomOf s) j }
  refine ⟨m, { writeSlot i (.ready c k n) data s with
               jobs := s.jobs.set c (some m), holding := s.holding ++ settledNotices n (roomOf s) j }, ?_, tested, rfl⟩
  rw [fillSlot, settleLine_eq (s := writeSlot i (.ready c k n) data s) n job]
  exact stored

/-- Settles O31. -/
theorem dataAnswerFillsOrFreesSlot : Obligations.DataAnswerFillsOrFreesSlot := by
  intro s e read data live
  rw [exec_fetchData_live data live]
  refine ⟨fun c k n j filling job => ⟨fun other => ?_, fun whole => ?_⟩, fun c k n j stale job => ?_, takeData_discard data live,
    takeData_other data live⟩
  · rw [takeData_filling data live filling job, if_neg other]
  · rw [takeData_filling data live filling job, if_pos whole]
    obtain ⟨m, t, fills, tested, eq⟩ := fillSlot_eq (s := entryFreed e s) read.slot k n data job
    have slot : t.slots[read.slot] = { state := .ready c k n, levels := writtenLevels data s.slots[read.slot].levels } := by
      rw [eq]
      exact vmod_getElem_self ..
    refine ⟨t, m, next_congr fills, by rw [slot], fun l => ?_, fun i other => ?_, ?_, tested, fun d other => ?_, by rw [eq]; rfl,
      by rw [eq]; rfl⟩
    · rw [slot, writtenLevels, ← levelAt_eq]
      exact vmap_getElem ..
    · rw [eq]
      exact vmod_getElem_ne _ _ other
    · rw [eq]
      exact jobs_set_self ..
    · rw [eq]
      exact jobs_set_ne _ _ other
  · rw [takeData_stale data live stale]
    refine next_congr ?_
    rw [settleLine_eq (s := setSlot read.slot (.empty c k) (entryFreed e s)) n job]
    rfl

end Sys2Proof.Machine
end

section
/-! SUPPORT. Proofs/Delivery.lean: the cut at a delivered line event, the job at the front of the list, and the idle event (O27). -/

namespace Sys2Proof.Machine

open Sys2Proof Sys2Proof.Claims

/-! ## The cut (R19, R82) -/

/-- A job after the cut of the group's pulses. -/
def clippedJob (s : State) (g : GroupId) (c : CtxId) (j : Job) : Job :=
  if notEnded j then { j with clipped := clippedAfter s g c j } else j

section
variable {s : State} {g : GroupId} {c : CtxId} {j : Job}

theorem clippedJob_live (live : ∀ st, j.state ≠ .ended st) : clippedJob s g c j = { j with clipped := clippedAfter s g c j } :=
  if_pos ((notEnded_iff j).mpr live)

theorem clippedJob_ended {st : EndStatus} (gone : j.state = .ended st) : clippedJob s g c j = j := by
  rw [clippedJob, notEnded_eq_false ⟨st, gone⟩]
  rfl

@[simp] theorem clippedJob_state : (clippedJob s g c j).state = j.state := by
  unfold clippedJob
  split <;> rfl

theorem cutCounted_job : (cutCounted g s).jobs[c] = s.jobs[c].map (clippedJob s g c) := by
  have job (j : Job) : (if notEnded j then { j with clipped := satAdd j.clipped (cutLanes g c s) } else j) = clippedJob s g c j := by
    rw [clippedJob, clippedAfter, satAdd_eq]
  refine (vmap_getElem _ _ _).trans ?_
  simp only [job]

theorem cutCounted_some (job : s.jobs[c] = some j) : (cutCounted g s).jobs[c] = some (clippedJob s g c j) := by
  rw [cutCounted_job, job]
  rfl

theorem cutCounted_pulse (lane : LaneId) : (cutCounted g s).pulses[lane] = cutPulse s g lane := vmap_getElem _ _ _

end

/-! ## The job at the front (R5, R12) -/

/-- This context is the first of the group's list, and holds this job. -/
def Front (s : State) (g : GroupId) (c : CtxId) (j : Job) : Prop := s.lists[g].head? = some c ∧ s.jobs[c] = some j

section
variable {s : State} {g : GroupId} {c : CtxId} {j : Job}

theorem frontJob_front (h : Front s g c j) : frontJob s g = some (c, j) := by
  obtain ⟨first, job⟩ := h
  simp only [frontJob, first, job, Option.map_some]

theorem frontJob_some_iff : frontJob s g = some (c, j) ↔ Front s g c j := by
  refine ⟨fun h => ?_, frontJob_front⟩
  unfold frontJob at h
  split at h
  · cases h
  · rename_i d first
    obtain ⟨m, job, e⟩ := Option.map_eq_some_iff.mp h
    cases e
    exact ⟨first, job⟩

theorem frontJob_nil (h : s.lists[g] = []) : frontJob s g = none := by simp only [frontJob, h, List.head?_nil]

theorem front_of_atFront {rest : List CtxId} (h : AtFront s g c rest j) : Front s g c j := by
  obtain ⟨list, -, job, -⟩ := h
  exact ⟨by rw [list]; rfl, job⟩

theorem front_cutCounted (h : Front s g c j) : Front (cutCounted g s) g c (clippedJob s g c j) := ⟨h.1, cutCounted_some h.2⟩

/-- A job that is not ARMED keeps its group from starting one. -/
theorem mayStart_none (h : Front s g c j) (state : j.state ≠ .armed ∨ s.groups[g].hold ≠ .none) : mayStart g s = none := by
  unfold mayStart
  rw [frontJob_front h]
  exact if_neg fun ⟨armed, _, free⟩ => state.elim (fun no => no armed) fun held => held free

theorem mayStart_nil (h : s.lists[g] = []) : mayStart g s = none := by
  unfold mayStart
  rw [frontJob_nil h]

theorem mayStart_front (h : Front s g c j) (armed : j.state = .armed) (free : s.groups[g].hold = .none)
    (quiet : ∀ e ∈ s.lists[g], ∀ x, s.jobs[e] = some x → ¬ FirstClass x) : mayStart g s = some (c, j) := by
  unfold mayStart
  rw [frontJob_front h]
  refine if_pos ⟨armed, Bool.eq_false_iff.mpr fun firing => ?_, free⟩
  obtain ⟨e, listed, x, job, state⟩ := listHas_iff.mp firing
  exact quiet e listed x job ((isFiringState_iff x).mp state)

theorem mayStart_some_front (h : mayStart g s = some (c, j)) : Front s g c j ∧ j.state = .armed ∧
    ∀ e ∈ s.lists[g], ∀ x, s.jobs[e] = some x → ¬ FirstClass x := by
  unfold mayStart at h
  split at h
  · cases h
  · rename_i d m front
    split at h
    · rename_i may
      obtain ⟨armed, quiet, -⟩ := may
      cases h
      refine ⟨frontJob_some_iff.mp front, armed, fun e listed x job first => ?_⟩
      have firing := listHas_iff.mpr ⟨e, listed, x, job, (isFiringState_iff x).mpr first⟩
      rw [quiet] at firing
      cases firing
    · cases h

theorem listHas_running (h : Front s g c j) (running : j.state = .running) : listHas s g isRunning = true :=
  listHas_iff.mpr ⟨c, List.mem_of_head? h.1, j, h.2, decide_eq_true running⟩

theorem listHas_running_false (h : ∀ d ∈ s.lists[g], ∀ x, s.jobs[d] = some x → x.state ≠ .running) : listHas s g isRunning = false :=
  Bool.eq_false_iff.mpr fun has => by
    obtain ⟨d, listed, x, job, running⟩ := listHas_iff.mp has
    exact h d listed x job (of_decide_eq_true running)

/-! ## What the event does at the front (R10 to R14) -/

/-- The part as a delivered event finds it for the job at the front: pulses cut, the FIRING slot released. -/
def opened (g : GroupId) (c : CtxId) (s : State) : State := releaseFiring c (cutCounted g s)

theorem actOnFront_running (h : Front s g c j) (running : j.state = .running) :
    actOnFront g (cutCounted g s) = runLine g c (clippedJob s g c j) (opened g c s) := by
  unfold actOnFront
  rw [frontJob_front (front_cutCounted h)]
  dsimp only
  rw [clippedJob_state, running]
  rfl

theorem actOnFront_finishing (h : Front s g c j) (finishing : j.state = .finishing) :
    actOnFront g (cutCounted g s) = endJob c .ended (opened g c s) := by
  unfold actOnFront
  rw [frontJob_front (front_cutCounted h)]
  dsimp only
  rw [clippedJob_state, finishing]
  rfl

theorem actOnFront_other (h : Front s g c j) (other : ¬ FirstClass j) : actOnFront g (cutCounted g s) = cutCounted g s := by
  unfold actOnFront
  rw [frontJob_front (front_cutCounted h)]
  dsimp only
  rw [clippedJob_state]
  cases state : j.state with
  | running => exact absurd (.inl state) other
  | finishing => exact absurd (.inr state) other
  | pending | waiting | primed | armed | ended => rfl

theorem actOnFront_nil (h : s.lists[g] = []) : actOnFront g (cutCounted g s) = cutCounted g s := by
  unfold actOnFront
  rw [frontJob_nil (s := cutCounted g s) h]

/-- The event once the job at the front has had it: the next one may start; with none running and none to start it is idle. -/
def concluded (g : GroupId) (busy : Bool) (t : State) : State :=
  match mayStart g t with
  | some (c, j) => startFiring g c j t
  | none => if busy then t else countIdle g t

theorem deliver_eq (g : GroupId) (s : State) : deliver g s = concluded g (listHas s g isRunning) (actOnFront g (cutCounted g s)) := rfl

theorem concluded_start {t : State} (b : Bool) (h : mayStart g t = some (c, j)) : concluded g b t = startFiring g c j t := by
  unfold concluded
  rw [h]

theorem concluded_busy {t : State} (h : mayStart g t = none) : concluded g true t = t := by
  unfold concluded
  rw [h]
  rfl

theorem concluded_idle {t : State} (h : mayStart g t = none) : concluded g false t = countIdle g t := by
  unfold concluded
  rw [h]
  rfl

theorem countIdle_eq (g : GroupId) (s : State) : countIdle g s = withGroup g { s.groups[g] with
    counters := { s.groups[g].counters with idleEvents := counted s.groups[g].counters.idleEvents } } s := by
  rw [← satInc_eq_counted]
  rfl

end

/-! ## The idle event (R14, R63) -/

theorem deliver_idle {s : State} {g : GroupId} (h : s.lists[g] = [] ∨ ∃ c rest j, AtFront s g c rest j ∧
    (j.state = .waiting ∨ j.state = .primed) ∧ ∀ d ∈ rest, ∀ x, s.jobs[d] = some x → x.state ≠ .running) :
    deliver g s = countIdle g (cutCounted g s) := by
  rw [deliver_eq]
  rcases h with empty | ⟨c, rest, j, front, state, others⟩
  · rw [actOnFront_nil empty, listHas_running_false (by rw [empty]; nofun), concluded_idle (mayStart_nil (s := cutCounted g s) empty)]
  · have not_armed : j.state ≠ .armed := by rcases state with e | e <;> rw [e] <;> nofun
    have not_first : ¬ FirstClass j := by
      rintro (e | e) <;> rw [e] at state <;> rcases state with h | h <;> cases h
    have none_running : ∀ d ∈ s.lists[g], ∀ x, s.jobs[d] = some x → x.state ≠ .running := by
      obtain ⟨list, -, job, -⟩ := front
      rw [list]
      refine List.forall_mem_cons.mpr ⟨fun x same running => ?_, others⟩
      cases job.symm.trans same
      exact not_first (.inl running)
    rw [actOnFront_other (front_of_atFront front) not_first, listHas_running_false none_running,
      concluded_idle (mayStart_none (front_cutCounted (front_of_atFront front)) (.inl (by rw [clippedJob_state]; exact not_armed)))]

/-- Settles O27. -/
theorem idleEventOnlyCutsAndCounts : Obligations.IdleEventOnlyCutsAndCounts := by
  intro s g h
  refine ⟨countIdle g (cutCounted g s), deliver_idle h, ?_, fun k other => ?_, fun lane => cutCounted_pulse lane, fun c j job live => ?_,
    fun c j st job gone => ?_, fun c none => ?_, rfl⟩
  · rw [countIdle_eq, withGroup_get_self]
    rfl
  · exact modGroup_get_ne _ _ other
  · exact (cutCounted_some job).trans (congrArg some (clippedJob_live live))
  · exact (cutCounted_some job).trans (congrArg some (clippedJob_ended gone))
  · refine cutCounted_job.trans ?_
    rw [none]
    rfl

end Sys2Proof.Machine
end

section
/-! SUPPORT. Proofs/Firing.lean: a fired line, its pulses, its MARK and the end of the job after the last one (O23, O24). -/

namespace Sys2Proof.Machine

open Sys2Proof Sys2Proof.Claims

/-! ## The pulses of a fired line (R76, R80) -/

/-- The latched copy as the firing job leaves it. -/
def latchFor (s : State) (g : GroupId) (p : ProfileId) : Latched :=
  { number := p, generation := s.profiles[p].generation, entries := firedEntries s g p }

theorem latchProfile_eq (g : GroupId) (p : ProfileId) (s : State) :
    latchProfile g p s = withGroup g { s.groups[g] with latched := some (latchFor s g p) } s := by
  have copied (anew : firedEntries s g p = s.profiles[p].entries) (not : latchKept s g p = false) :
      latchProfile g p s = withGroup g { s.groups[g] with latched := some (latchFor s g p) } s := by
    rw [latchProfile, not, latchFor, anew]
    rfl
  cases latched : s.groups[g].latched with
  | none => exact copied (by simp only [firedEntries, latched]) (by simp only [latchKept, latched])
  | some l =>
    by_cases same : l.number = p ∧ l.generation = s.profiles[p].generation
    · have kept : latchKept s g p = true := by
        simp only [latchKept, latched]
        exact decide_eq_true same
      have record : latchFor s g p = l := by
        have entries : firedEntries s g p = l.entries := by
          simp only [firedEntries, latched]
          exact if_pos same
        rw [latchFor, entries, ← same.1, ← (same.1 ▸ same.2 : l.generation = s.profiles[l.number].generation)]
      rw [latchProfile, if_pos kept, record, ← latched]
      exact (withGroup_self g s).symm
    · refine copied ?_ ?_
      · simp only [firedEntries, latched]
        exact if_neg same
      · simp only [latchKept, latched]
        exact decide_eq_false same

theorem lanePulse_eq (s : State) (g : GroupId) (c : CtxId) (i : SlotId) (p : ProfileId) (lane : LaneId) :
    lanePulse s g c i (firedEntries s g p) lane =
      if formed s g c i p lane = .none then none else some (formed s g c i p lane) := by
  let e := entryOf (firedEntries s g p) (s.slots[i].levels.toList.getD (lane.val - s.configs[g].firstLane.toNat) 0)
  let start := s.clock.tick + effectiveDelay e.delay s.lanes[lane].trim
  have pulse : formed s g c i p lane = if inSpan s.configs[g] lane.val = true ∧ s.lanes[lane].enable = true then
      if e.width = 0 then .none else .scheduled start (start + e.width.toNat) g c else .none := rfl
  have given : lanePulse s g c i (firedEntries s g p) lane = if inSpan s.configs[g] lane.val = true then
      if (s.lanes[lane].enable && decide (e.width ≠ 0)) = true then some (.scheduled start (start + e.width.toNat) g c) else none
      else none := rfl
  by_cases pulses : inSpan s.configs[g] lane.val = true ∧ s.lanes[lane].enable = true ∧ e.width ≠ 0
  · obtain ⟨span, enabled, wide⟩ := pulses
    have some : formed s g c i p lane = .scheduled start (start + e.width.toNat) g c := by
      rw [pulse, if_pos ⟨span, enabled⟩, if_neg wide]
    rw [some, if_neg nofun, given, if_pos span, if_pos (Bool.and_eq_true_iff.mpr ⟨enabled, decide_eq_true wide⟩)]
  · have none : formed s g c i p lane = .none := by
      rw [pulse]
      split
      · rename_i both
        exact if_pos (not_not.mp fun wide => pulses ⟨both.1, both.2, wide⟩)
      · rfl
    rw [none, if_pos rfl, given]
    split
    · rename_i span
      refine if_neg fun both => ?_
      obtain ⟨enabled, wide⟩ := Bool.and_eq_true_iff.mp both
      exact pulses ⟨span, enabled, of_decide_eq_true wide⟩
    · rfl

/-- Firing a line leaves the levels of every slot, so the pulses it gives are those of the state before. -/
theorem lanePulse_latched (g : GroupId) (c : CtxId) (i : SlotId) (x : GroupState) (st : SlotState) (s : State)
    (entries : Vector ProfileEntry 16) (lane : LaneId) :
    lanePulse (withGroup g x (setSlot i st s)) g c i entries lane = lanePulse s g c i entries lane := by
  have levels : (withGroup g x (setSlot i st s)).slots[i].levels = s.slots[i].levels := by
    show (setSlot i st s).slots[i].levels = _
    rw [setSlot_get, if_pos rfl]
  unfold lanePulse
  rw [levels]
  rfl

/-- The pulse records once the line has fired. -/
def firedPulses (s : State) (g : GroupId) (c : CtxId) (i : SlotId) (p : ProfileId) : Vector Pulse 64 :=
  vmap (fun lane x => if formed s g c i p lane = .none then x else formed s g c i p lane) s.pulses

/-! ## The MARK (R20) -/

/-- A job that has fired a line, with this much room for its MARK. -/
def firedJob (room : Nat) (j : Job) : Job :=
  { j with
    linesFired := counted j.linesFired
    firePos := j.firePos + 1
    noticesLost := if MarkDue j ∧ room = 0 then counted j.noticesLost else j.noticesLost }

/-- The MARK placed, if one is due and there is room. -/
def markPlaced (room : Nat) (j : Job) : List CompRecord :=
  if MarkDue j ∧ room ≠ 0 then [.mark j.tag (counted j.linesFired)] else []

theorem markTest_eq {c : CtxId} {j : Job} {s : State}
    (job : s.jobs[c] = some { j with linesFired := counted j.linesFired, firePos := j.firePos + 1 }) :
    markTest c s = { s with
      jobs := s.jobs.set c (some (firedJob (roomOf s) j)), holding := s.holding ++ markPlaced (roomOf s) j } := by
  unfold markTest
  rw [job]
  dsimp only
  by_cases due : MarkDue j
  · rw [if_pos due]
    by_cases full : roomOf s = 0
    · rw [offerNotice_lost _ job full, firedJob, markPlaced, if_pos ⟨due, full⟩, if_neg (fun h => h.2 full), List.append_nil,
        satInc_eq_counted]
    · rw [offerNotice_placed c _ full, firedJob, markPlaced, if_neg (fun h => full h.2), if_pos ⟨due, full⟩, jobs_set_same job]
  · rw [if_neg due, firedJob, markPlaced, if_neg (fun h => due h.1), if_neg (fun h => due h.1), List.append_nil, jobs_set_same job]

/-! ## A fired line (R10) -/

/-- The part once the line has fired, before the test for the last line. -/
def fired (g : GroupId) (c : CtxId) (j : Job) (i : SlotId) (s : State) : State :=
  { s with
    slots := s.slots.set i { s.slots[i] with state := .firing c (j.firePos % j.depth) j.firePos }
    groups := s.groups.set g { s.groups[g] with latched := some (latchFor s g j.profile) }
    pulses := firedPulses s g c i j.profile
    jobs := s.jobs.set c (some (firedJob (roomOf s) j))
    holding := s.holding ++ markPlaced (roomOf s) j }

section
variable {s : State} {g : GroupId} {c : CtxId} {j : Job} {i : SlotId}

theorem formedCount_zero_iff (x : GroupState) (st : SlotState) (s : State)
    (entries : latchedEntries (withGroup g x (setSlot i st s)) g = firedEntries s g j.profile) :
    formedCount g c i (withGroup g x (setSlot i st s)) = 0 ↔ ∀ lane, formed s g c i j.profile lane = .none := by
  unfold formedCount
  rw [entries, List.length_eq_zero_iff, List.filter_eq_nil_iff]
  refine ⟨fun h lane => ?_, fun h lane _ => ?_⟩
  · have none := h lane (List.mem_finRange lane)
    rw [lanePulse_latched, lanePulse_eq] at none
    by_contra some
    rw [if_neg some] at none
    exact none rfl
  · rw [lanePulse_latched, lanePulse_eq, if_pos (h lane)]
    nofun

theorem fireLine_eq (job : s.jobs[c] = some j) :
    ∃ n, fireLine g c j i s = lastLineTest c n (fired g c j i s) ∧ (n = 0 ↔ ∀ lane, formed s g c i j.profile lane = .none) := by
  let u := setSlot i (.firing c (j.firePos % j.depth) j.firePos) s
  let x : GroupState := { s.groups[g] with latched := some (latchFor s g j.profile) }
  have latched : latchProfile g j.profile u = withGroup g x u := latchProfile_eq g j.profile u
  have entries : latchedEntries (withGroup g x u) g = firedEntries s g j.profile := by
    unfold latchedEntries
    rw [withGroup_get_self]
    rfl
  have pulses : formPulses g c i (withGroup g x u) = { withGroup g x u with pulses := firedPulses s g c i j.profile } := by
    unfold formPulses firedPulses
    rw [entries]
    congr 1
    refine table_ext fun lane => ?_
    rw [vmap_getElem, vmap_getElem, lanePulse_latched, lanePulse_eq]
    by_cases none : formed s g c i j.profile lane = .none
    · rw [if_pos none, if_pos none]; rfl
    · rw [if_neg none, if_neg none]; rfl
  refine ⟨formedCount g c i (withGroup g x u), ?_, formedCount_zero_iff x _ s entries⟩
  unfold fireLine
  dsimp only
  rw [latched, pulses, modJob_some (s := { withGroup g x u with pulses := firedPulses s g c i j.profile }) _ job, satInc_eq_counted]
  refine congrArg (lastLineTest c _) ((markTest_eq (j := j) (jobs_set_self ..)).trans ?_)
  rw [jobs_set_set]
  rfl

theorem fired_job : (fired g c j i s).jobs[c] = some (firedJob (roomOf s) j) := jobs_set_self ..

theorem fireLine_continues (job : s.jobs[c] = some j) (more : ¬ LastLine j) : fireLine g c j i s = fired g c j i s := by
  obtain ⟨n, e, -⟩ := fireLine_eq (g := g) (i := i) job
  rw [e, lastLineTest, fired_job]
  exact if_neg more

theorem fireLine_finishes (job : s.jobs[c] = some j) (last : LastLine j) (pulse : ∃ lane, formed s g c i j.profile lane ≠ .none) :
    fireLine g c j i s = { fired g c j i s with
      jobs := s.jobs.set c (some { firedJob (roomOf s) j with state := .finishing }) } := by
  obtain ⟨n, e, zero⟩ := fireLine_eq (g := g) (i := i) job
  have some : n ≠ 0 := fun none => pulse.elim fun lane some => some (zero.mp none lane)
  rw [e, lastLineTest, fired_job]
  dsimp only
  rw [if_pos (show (firedJob (roomOf s) j).isOpen = false ∧ (firedJob (roomOf s) j).firePos = (firedJob (roomOf s) j).supplied from last),
    if_neg some, setJobState, modJob_some _ fired_job]
  simp only [fired, jobs_set_set]

theorem fireLine_ends (job : s.jobs[c] = some j) (last : LastLine j) (none : ∀ lane, formed s g c i j.profile lane = .none) :
    fireLine g c j i s = endJob c .ended (fired g c j i s) := by
  obtain ⟨n, e, zero⟩ := fireLine_eq (g := g) (i := i) job
  rw [e, lastLineTest, fired_job]
  dsimp only
  rw [if_pos (show (firedJob (roomOf s) j).isOpen = false ∧ (firedJob (roomOf s) j).firePos = (firedJob (roomOf s) j).supplied from last),
    if_pos (zero.mpr none)]

end

end Sys2Proof.Machine
end

section
/-! SUPPORT. Proofs/Underruns.lean: an underrun by its policy, and what a line of one job leaves of another. -/

namespace Sys2Proof.Machine

open Sys2Proof Sys2Proof.Claims

/-! ## Underrun (R11, R36 to R39) -/

/-- The job has passed its line: it counts as skipped and the fire position moves on. -/
def passedJob (j : Job) : Job := { j with linesSkipped := counted j.linesSkipped, firePos := j.firePos + 1 }

section
variable {s : State} {c : CtxId} {j : Job} (job : s.jobs[c] = some j)
include job

theorem chargeHeld_eq : chargeHeld c s = { s with jobs := s.jobs.set c (some { j with heldEvents := counted j.heldEvents }) } := by
  rw [chargeHeld, modJob_some _ job, satInc_eq_counted]

theorem chargeSkip_eq : chargeSkip c s = { s with jobs := s.jobs.set c (some (passedJob j)) } := by
  rw [chargeSkip, modJob_some _ job, satInc_eq_counted]
  rfl

/-- A line being read is skipped: its slot is STALE. -/
theorem skip_filling {i : SlotId} {o : CtxId} {k n : Nat} (line : Nat) (filling : s.slots[i].state = .filling o k n) :
    chargeSkip c (skipSlot c line (some i) s) = { s with
      slots := s.slots.set i { s.slots[i] with state := .stale o k n }, jobs := s.jobs.set c (some (passedJob j)) } := by
  unfold skipSlot
  dsimp only
  rw [filling]
  exact chargeSkip_eq (s := setSlot i (.stale o k n) s) job

theorem skip_settled (line : Nat) :
    chargeSkip c (settleLine c line (modJob c (fun j => { j with cursor := max j.cursor (line + 1) }) s)) = { s with
      jobs := s.jobs.set c (some (settledJob line (roomOf s) { passedJob j with cursor := max j.cursor (line + 1) }))
      holding := s.holding ++ settledNotices line (roomOf s) j } := by
  rw [modJob_some _ job]
  have moved : ({ s with jobs := s.jobs.set c (some { j with cursor := max j.cursor (line + 1) }) } : State).jobs[c] =
      some { j with cursor := max j.cursor (line + 1) } := jobs_set_self ..
  rw [settleLine_eq line moved, chargeSkip_eq (j := settledJob line (roomOf s) { j with cursor := max j.cursor (line + 1) }) (jobs_set_self ..)]
  simp only [jobs_set_set]
  rfl

/-- A line that is not being read is skipped: the cursor moves past it and it is settled. -/
theorem skip_other {slot : Option SlotId} (line : Nat) (other : ∀ i o k n, slot = some i → s.slots[i].state ≠ .filling o k n) :
    chargeSkip c (skipSlot c line slot s) = { s with
      jobs := s.jobs.set c (some (settledJob line (roomOf s) { passedJob j with cursor := max j.cursor (line + 1) }))
      holding := s.holding ++ settledNotices line (roomOf s) j } := by
  rw [← skip_settled job line]
  congr 1
  cases slot with
  | none => rfl
  | some i =>
    unfold skipSlot
    dsimp only
    cases state : s.slots[i].state with
    | filling o k n => exact absurd state (other i o k n rfl)
    | free | empty | ready | firing | stale | discard => rfl

/-- A skip changes the slots at most in the line's own, from FILLING to STALE, and no other job. -/
theorem skip_cases (line : Nat) (slot : Option SlotId) :
    ∃ m notices, chargeSkip c (skipSlot c line slot s) = { s with
      slots := (chargeSkip c (skipSlot c line slot s)).slots, jobs := s.jobs.set c (some m), holding := s.holding ++ notices } ∧
    SameJob j m ∧ m.linesFired = j.linesFired ∧ m.clipped = j.clipped ∧ m.heldEvents = j.heldEvents ∧ m.state = j.state ∧
    m.isOpen = j.isOpen ∧ m.supplied = j.supplied ∧ m.firePos = j.firePos + 1 ∧ m.linesSkipped = counted j.linesSkipped ∧
    ((chargeSkip c (skipSlot c line slot s)).slots = s.slots ∨ ∃ i o k n, slot = some i ∧ s.slots[i].state = .filling o k n ∧
      (chargeSkip c (skipSlot c line slot s)).slots = s.slots.set i { s.slots[i] with state := .stale o k n }) := by
  by_cases filling : ∃ i o k n, slot = some i ∧ s.slots[i].state = .filling o k n
  · obtain ⟨i, o, k, n, rfl, filling⟩ := filling
    rw [skip_filling job line filling]
    exact ⟨passedJob j, [], by rw [List.append_nil], ⟨rfl, rfl, rfl, rfl, rfl, rfl, rfl⟩, rfl, rfl, rfl, rfl, rfl, rfl, rfl, rfl,
      .inr ⟨i, o, k, n, rfl, filling, rfl⟩⟩
  · rw [skip_other job line fun i o k n e f => filling ⟨i, o, k, n, e, f⟩]
    exact ⟨_, _, rfl, ⟨rfl, rfl, rfl, rfl, rfl, rfl, rfl⟩, rfl, rfl, rfl, rfl, rfl, rfl, rfl, rfl, .inl rfl⟩

end

/-! ## What the line of one job leaves of another -/

/-- The slot belongs to the ring of this context. -/
def Owned (s : State) (i : SlotId) (c : CtxId) : Prop := ∃ k, ringPlace s.slots[i].state = some (c, k)

/-- The job in a context that waits for no slots is the same, with the same ring. -/
structure Kept (c : CtxId) (s t : State) : Prop where
  job : t.jobs[c] = s.jobs[c]
  wait : c ∉ t.slotWait
  slots : ∀ i : SlotId, Owned s i c ∨ Owned t i c → t.slots[i] = s.slots[i]

section
variable {c d : CtxId} {s t u : State}

theorem Kept.trans (h : Kept c s t) (k : Kept c t u) : Kept c s u where
  job := k.job.trans h.job
  wait := k.wait
  slots i owned := by
    have at_ (now : Owned t i c) : u.slots[i] = s.slots[i] := (k.slots i (.inl now)).trans (h.slots i (.inr now))
    rcases owned with ⟨n, before⟩ | ⟨n, after⟩
    · exact at_ ⟨n, by rw [h.slots i (.inl ⟨n, before⟩)]; exact before⟩
    · exact at_ ⟨n, by rw [← k.slots i (.inr ⟨n, after⟩)]; exact after⟩

theorem Kept.of_eq (wait : c ∉ s.slotWait) (jobs : t.jobs[c] = s.jobs[c]) (waits : t.slotWait = s.slotWait) (slots : t.slots = s.slots) :
    Kept c s t := ⟨jobs, by rw [waits]; exact wait, fun i _ => by rw [slots]⟩

/-- A slot of another job is rewritten. -/
theorem Kept.of_slot {i : SlotId} {x : Slot} (wait : c ∉ s.slotWait) (jobs : t.jobs[c] = s.jobs[c]) (waits : t.slotWait = s.slotWait)
    (slots : t.slots = s.slots.set i x) (before : ∀ k, ringPlace s.slots[i].state ≠ some (c, k))
    (after : ∀ k, ringPlace x.state ≠ some (c, k)) : Kept c s t := by
  have self : t.slots[i] = x := by rw [slots]; simp
  refine ⟨jobs, by rw [waits]; exact wait, fun n owned => ?_⟩
  by_cases same : n = i
  · subst same
    rcases owned with ⟨k, e⟩ | ⟨k, e⟩
    · exact absurd e (before k)
    · rw [self] at e
      exact absurd e (after k)
  · have apart : i.val ≠ n.val := fun e => same (Fin.ext e.symm)
    rw [slots]
    simp [apart]

theorem Kept.slotAt_eq (h : Kept c s t) (k : Nat) : slotAt t c k = slotAt s c k := by
  unfold slotAt
  have same (i : SlotId) : ringPlace t.slots[i].state = some (c, k) ↔ ringPlace s.slots[i].state = some (c, k) := by
    refine ⟨fun e => ?_, fun e => ?_⟩
    · rw [← h.slots i (.inr ⟨k, e⟩)]; exact e
    · rw [h.slots i (.inl ⟨k, e⟩)]; exact e
  simp only [same]

theorem Kept.noRing (h : Kept c s t) (none : NoRing s c) : NoRing t c := fun i k owned => by
  rw [h.slots i (.inr ⟨k, owned⟩)] at owned
  exact none i k owned

/-- A slot is released where it belongs to the ring. -/
theorem freed_cases (d : CtxId) (x : SlotState) :
    freed d x = x ∨ (∃ k, ringPlace x = some (d, k)) ∧ (freed d x = .free ∨ freed d x = .discard) := by
  cases x with
  | free | discard => exact .inl rfl
  | empty o k =>
    by_cases same : o = d
    · exact .inr ⟨⟨k, by rw [← same]; rfl⟩, .inl (if_pos same)⟩
    · exact .inl (if_neg same)
  | ready o k n | firing o k n =>
    by_cases same : o = d
    · exact .inr ⟨⟨k, by rw [← same]; rfl⟩, .inl (if_pos same)⟩
    · exact .inl (if_neg same)
  | filling o k n | stale o k n =>
    by_cases same : o = d
    · exact .inr ⟨⟨k, by rw [← same]; rfl⟩, .inr (if_pos same)⟩
    · exact .inl (if_neg same)

/-- The end of one job leaves another that neither waits for slots nor is PENDING. -/
theorem endJob_kept_of {j : Job} (st : EndStatus) (job : s.jobs[d] = some j) (other : c ≠ d) (wait : c ∉ s.slotWait)
    (state : ∀ m, s.jobs[c] = some m → m.state ≠ .pending) : Kept c s (endJob d st s) := by
  have not_up : c ∉ movesUp s d j.group := fun up => by
    obtain ⟨-, -, m, here, pending⟩ := mem_movesUp up
    exact state m here pending
  have wait_left : c ∉ (leaving d st j.group s).slotWait := by
    rw [leaving_slotWait]
    simp only [List.mem_append, List.mem_filter, not_or]
    exact ⟨fun h => wait h.1, not_up⟩
  obtain ⟨jobs, -, slots, slotWait, -⟩ := (endJob_offer st job).fields
  obtain ⟨-, ⟨front, suffix⟩, same, -, -, granted_slots⟩ := grant_grant (leaving d st j.group s)
  have left (i : SlotId) := leaving_slots d st j.group s i
  refine ⟨?_, ?_, fun i owned => ?_⟩
  · rw [jobs]
    exact (same c wait_left).trans ((leaving_jobs_ne d st j.group s other).trans (if_neg not_up))
  · rw [slotWait]
    exact fun h => wait_left (suffix ▸ List.mem_append_right _ h)
  · have apart : ∀ x, ∀ k, ringPlace x = some (c, k) → ∀ n, ringPlace x ≠ some (d, n) := fun x k e n f => by
      rw [e] at f
      cases f
      exact other rfl
    have slot : (endJob d st s).slots[i] = (granted d st j.group s).slots[i] := by rw [slots]
    rcases granted_slots i with e | ⟨free, x, waits, k, e⟩
    · have whole : (endJob d st s).slots[i] = { s.slots[i] with state := freed d s.slots[i].state } := slot.trans (e.trans (left i))
      rcases freed_cases d s.slots[i].state with same | ⟨⟨n, before⟩, after⟩
      · rw [whole, same]
      · rcases owned with ⟨k, e⟩ | ⟨k, e⟩
        · exact absurd before (apart _ k e n)
        · rw [whole] at e
          rcases after with f | f <;> rw [f] at e <;> cases e
    · have whole := slot.trans e
      rcases owned with ⟨n, before⟩ | ⟨n, after⟩
      · rw [left i] at free
        rcases freed_cases d s.slots[i].state with same | ⟨⟨k, at_⟩, -⟩
        · rw [same.symm.trans free] at before
          cases before
        · exact absurd at_ (apart _ n before k)
      · rw [whole] at after
        cases after
        exact absurd waits wait_left

end

end Sys2Proof.Machine
end

section
/-! SUPPORT. Proofs/Starts.lean: a job that starts after another has left the front, and the part as a line event opens it. -/

namespace Sys2Proof.Machine

open Sys2Proof Sys2Proof.Claims

/-! ## The line of one job and another job -/

section
variable {s : State} {g : GroupId} {c d : CtxId} {j : Job} (job : s.jobs[d] = some j) (other : c ≠ d) (wait : c ∉ s.slotWait)

/-- A job that is kept up to the end of another is kept by it. -/
theorem Kept.endJob {t : State} {k : Job} (h : Kept c s t) (other : c ≠ d) (state : ∀ m, s.jobs[c] = some m → m.state ≠ .pending)
    (st : EndStatus) (now : t.jobs[d] = some k) : Kept c s (endJob d st t) :=
  h.trans (endJob_kept_of st now other h.wait fun m here => state m (h.job.symm.trans here))

include job other wait

theorem skip_keeps (line : Nat) {slot : Option SlotId} (ring : ∀ i, slot = some i → ∃ k, ringPlace s.slots[i].state = some (d, k)) :
    Kept c s (chargeSkip d (skipSlot d line slot s)) ∧
    ∃ m, (chargeSkip d (skipSlot d line slot s)).jobs[d] = some m := by
  obtain ⟨m, notices, e, -, -, -, -, -, -, -, -, -, slots⟩ := skip_cases job line slot
  have jobs : (chargeSkip d (skipSlot d line slot s)).jobs = s.jobs.set d (some m) := by rw [e]
  have waits : (chargeSkip d (skipSlot d line slot s)).slotWait = s.slotWait := by rw [e]
  have self : (chargeSkip d (skipSlot d line slot s)).jobs[d] = some m := by rw [jobs]; exact jobs_set_self ..
  have same : (chargeSkip d (skipSlot d line slot s)).jobs[c] = s.jobs[c] := by rw [jobs]; exact jobs_set_ne _ _ other
  refine ⟨?_, m, self⟩
  rcases slots with slots | ⟨i, o, k, n, here, filling, slots⟩
  · exact .of_eq wait same waits slots
  · obtain ⟨q, place⟩ := ring i here
    obtain rfl : o = d := by
      rw [filling] at place
      cases place
      rfl
    refine .of_slot (i := i) wait same waits slots (fun k e => ?_) (fun k e => ?_)
    · rw [place] at e
      cases e
      exact other rfl
    · cases e
      exact other rfl

section
variable (state : ∀ m, s.jobs[c] = some m → m.state ≠ .pending)
include state

theorem fireLine_keeps {i : SlotId} (at_ : slotAt s d (j.firePos % j.depth) = some i) : Kept c s (fireLine g d j i s) := by
  have kept : Kept c s (fired g d j i s) := by
    refine .of_slot (i := i) wait (jobs_set_ne _ _ other) rfl rfl (fun k e => ?_) (fun k e => ?_)
    · rw [slotAt_some at_] at e
      cases e
      exact other rfl
    · cases e
      exact other rfl
  by_cases last : LastLine j
  · by_cases none : ∀ lane, formed s g d i j.profile lane = .none
    · rw [fireLine_ends job last none]
      exact kept.endJob other state .ended fired_job
    · rw [fireLine_finishes job last (not_forall.mp none)]
      exact kept.trans (.of_eq kept.wait ((jobs_set_ne _ _ other).trans kept.job.symm) rfl rfl)
  · rw [fireLine_continues job last]
    exact kept

theorem underrun_keeps {slot : Option SlotId} (ring : ∀ i, slot = some i → ∃ k, ringPlace s.slots[i].state = some (d, k)) :
    Kept c s (underrun d j slot s) := by
  have held : Kept c s (chargeHeld d s) := by
    rw [chargeHeld_eq job]
    exact .of_eq wait (jobs_set_ne _ _ other) rfl rfl
  unfold underrun
  cases j.policy with
  | hold => exact held
  | stop => exact endJob_kept_of .underrun job other wait state
  | skip =>
    dsimp only
    split
    · obtain ⟨kept, m, now⟩ := skip_keeps job other wait j.firePos ring
      unfold skipEndTest
      rw [now]
      dsimp only
      split
      · exact kept.endJob other state .ended now
      · exact kept
    · exact held

theorem runLine_keeps : Kept c s (runLine g d j s) := by
  unfold runLine
  cases at_ : slotAt s d (j.firePos % j.depth) with
  | none => exact underrun_keeps job other wait state nofun
  | some i =>
    dsimp only
    split
    · exact fireLine_keeps job other wait state at_
    · exact underrun_keeps job other wait state fun n e => ⟨_, by cases e; exact slotAt_some at_⟩

theorem startFiring_keeps : Kept c s (startFiring g d j s) := by
  have started : setJobState d .running s = { s with jobs := s.jobs.set d (some { j with state := .running }) } := modJob_some _ job
  have kept : Kept c s (setJobState d .running s) := by
    rw [started]
    exact .of_eq wait (jobs_set_ne _ _ other) rfl rfl
  refine kept.trans (runLine_keeps ?_ other kept.wait fun m here => state m (kept.job.symm.trans here))
  rw [started]
  exact jobs_set_self ..

end

end

/-- A job that has ended and left keeps its record and gets no ring, whatever starts at the event. -/
theorem concluded_keeps {g : GroupId} {c : CtxId} {t : State} {k : Job} {st : EndStatus} (b : Bool) (job : t.jobs[c] = some k)
    (gone : k.state = .ended st) (wait : c ∉ t.slotWait) (left : c ∉ t.lists[g]) : Kept c t (concluded g b t) := by
  cases may : mayStart g t with
  | none =>
    unfold concluded
    rw [may]
    cases b with
    | false => exact .of_eq wait rfl rfl rfl
    | true => exact .of_eq wait rfl rfl rfl
  | some next =>
    obtain ⟨d, m⟩ := next
    obtain ⟨⟨first, here⟩, -, -⟩ := mayStart_some_front may
    rw [concluded_start b may]
    refine startFiring_keeps here (fun same => left ?_) wait fun n now => ?_
    · rw [same]
      exact List.mem_of_head? first
    · cases job.symm.trans now
      rw [gone]
      nofun

/-- A job that ends at the event stays as it has ended. -/
theorem concluded_endJob {s : State} {g : GroupId} {c : CtxId} {m : Job} (st : EndStatus) (b : Bool) (job : s.jobs[c] = some m)
    (group : m.group = g) :
    (concluded g b (endJob c st s)).jobs[c] = some { m with state := .ended st, extents := [], retired := 0, cursor := 0 } ∧
    NoRing (concluded g b (endJob c st s)) c := by
  obtain ⟨gone, ring, wait, lists, -⟩ := endJob_spec st job
  have left : c ∉ (endJob c st s).lists[g] := by
    rw [lists, if_pos group.symm]
    exact fun listed => of_decide_eq_true (List.mem_filter.mp listed).2 rfl
  have kept := concluded_keeps b gone rfl wait left
  exact ⟨kept.job.trans gone, kept.noRing ring⟩

/-! ## Pulses of the job that starts -/

theorem formed_span {s : State} {g : GroupId} {c : CtxId} {i : SlotId} {p : ProfileId} {lane : LaneId}
    (h : formed s g c i p lane ≠ .none) : inSpan s.configs[g] lane.val = true := by
  by_contra span
  exact h (if_neg fun both => span both.1)

theorem firedPulses_get {s : State} {g : GroupId} {c : CtxId} {i : SlotId} {p : ProfileId} (lane : LaneId) :
    (firedPulses s g c i p)[lane] = if formed s g c i p lane = .none then s.pulses[lane] else formed s g c i p lane :=
  vmap_getElem _ _ _

theorem firedPulses_none {s : State} {g : GroupId} {c : CtxId} {i : SlotId} {p : ProfileId}
    (none : ∀ lane, formed s g c i p lane = .none) : firedPulses s g c i p = s.pulses :=
  table_ext fun lane => (firedPulses_get lane).trans (if_pos (none lane))

section
variable {s : State} {g : GroupId} {c : CtxId} {j : Job}

theorem endJob_pulses {st : EndStatus} (job : s.jobs[c] = some j) : (endJob c st s).pulses = s.pulses :=
  (endJob_spec st job).2.2.2.2.2.1

theorem underrun_pulses (job : s.jobs[c] = some j) (slot : Option SlotId) : (underrun c j slot s).pulses = s.pulses := by
  unfold underrun
  cases j.policy with
  | hold => rfl
  | stop => exact endJob_pulses job
  | skip =>
    dsimp only
    split
    · obtain ⟨m, notices, e, -⟩ := skip_cases job j.firePos slot
      have same : (chargeSkip c (skipSlot c j.firePos slot s)).pulses = s.pulses := by rw [e]
      unfold skipEndTest
      split
      · exact same
      · split
        · exact (endJob_pulses ‹_›).trans same
        · exact same
    · rfl

/-- A line adds a pulse only within the span, and then its job stays at the front, RUNNING or FINISHING. -/
theorem fireLine_pulses (front : Front s g c j) (running : j.state = .running) {i : SlotId} (lane : LaneId) :
    (fireLine g c j i s).pulses[lane] = s.pulses[lane] ∨
    inSpan s.configs[g] lane.val = true ∧ ∃ k, Front (fireLine g c j i s) g c k ∧ FirstClass k := by
  obtain ⟨first, job⟩ := front
  have get := firedPulses_get (s := s) (g := g) (c := c) (i := i) (p := j.profile) lane
  by_cases last : LastLine j
  · by_cases none : ∀ lane, formed s g c i j.profile lane = .none
    · left
      rw [fireLine_ends job last none, endJob_pulses fired_job, ← firedPulses_none none]
      rfl
    · rw [fireLine_finishes job last (not_forall.mp none)]
      by_cases here : formed s g c i j.profile lane = .none
      · exact .inl (get.trans (if_pos here))
      · exact .inr ⟨formed_span here, _, ⟨first, jobs_set_self ..⟩, .inr rfl⟩
  · rw [fireLine_continues job last]
    by_cases here : formed s g c i j.profile lane = .none
    · exact .inl (get.trans (if_pos here))
    · exact .inr ⟨formed_span here, _, ⟨first, fired_job⟩, .inl running⟩

theorem startFiring_pulses (front : Front s g c j) (lane : LaneId) :
    (startFiring g c j s).pulses[lane] = s.pulses[lane] ∨
    inSpan s.configs[g] lane.val = true ∧ ∃ k, Front (startFiring g c j s) g c k ∧ FirstClass k := by
  obtain ⟨first, job⟩ := front
  have started : setJobState c .running s = { s with jobs := s.jobs.set c (some { j with state := .running }) } := modJob_some _ job
  have now : (setJobState c .running s).jobs[c] = some { j with state := .running } := by rw [started]; exact jobs_set_self ..
  have under (slot : Option SlotId) :
      (underrun c { j with state := .running } slot (setJobState c .running s)).pulses[lane] = s.pulses[lane] := by
    rw [underrun_pulses now]
    rfl
  unfold startFiring runLine
  split
  · exact .inl (under _)
  · split
    · exact fireLine_pulses (s := setJobState c .running s) ⟨first, now⟩ rfl lane
    · exact .inl (under _)

end

/-- What starts once a job has left the front adds pulses within the span at most, and then stands at the front. -/
theorem concluded_pulses (g : GroupId) (b : Bool) (t : State) (lane : LaneId) :
    (concluded g b t).pulses[lane] = t.pulses[lane] ∨
    inSpan t.configs[g] lane.val = true ∧
      ∃ d m, Front t g d m ∧ m.state = .armed ∧ ∃ k, Front (concluded g b t) g d k ∧ FirstClass k := by
  cases may : mayStart g t with
  | none =>
    unfold concluded
    rw [may]
    cases b with
    | false => exact .inl rfl
    | true => exact .inl rfl
  | some next =>
    obtain ⟨d, m⟩ := next
    obtain ⟨front, armed, -⟩ := mayStart_some_front may
    rw [concluded_start b may]
    rcases startFiring_pulses front lane with same | ⟨span, k, now, first⟩
    · exact .inl same
    · exact .inr ⟨span, d, m, front, armed, k, now, first⟩

/-! ## The part as the event opens it (R33, R82) -/

section
variable {s : State} {g : GroupId} {c : CtxId}

theorem firingReleased_eq_unfired (x : SlotState) : firingReleased c x = unfired c x := by
  cases x with
  | firing o k n =>
    by_cases same : o = c
    · subst same
      exact (if_pos rfl).trans (if_pos rfl).symm
    · exact (if_neg same).trans (if_neg same).symm
  | free | empty | filling | ready | stale | discard => rfl

theorem ringPlace_unfired (x : SlotState) : ringPlace (unfired c x) = ringPlace x := by
  cases x with
  | firing o k n =>
    by_cases same : o = c
    · subst same
      have empty : unfired o (.firing o k n) = .empty o k := if_pos rfl
      rw [empty]
      rfl
    · exact congrArg ringPlace (if_neg same)
  | free | empty | filling | ready | stale | discard => rfl

theorem opened_slot (i : SlotId) : (opened g c s).slots[i] = { s.slots[i] with state := unfired c s.slots[i].state } := by
  rw [opened, releaseFiring_get, firingReleased_eq_unfired]
  rfl

theorem slotAt_opened (d : CtxId) (k : Nat) : slotAt (opened g c s) d k = slotAt s d k := by
  have place (i : SlotId) : ringPlace (opened g c s).slots[i].state = ringPlace s.slots[i].state := by
    rw [opened_slot]
    exact ringPlace_unfired _
  unfold slotAt
  simp only [place]

theorem opened_some {d : CtxId} {m : Job} (job : s.jobs[d] = some m) : (opened g c s).jobs[d] = some (clippedJob s g d m) :=
  cutCounted_some job

theorem opened_pulse (lane : LaneId) : (opened g c s).pulses[lane] = cutPulse s g lane := cutCounted_pulse lane

theorem opened_room : roomOf (opened g c s) = roomOf s := rfl

/-- The pulses of a line depend on levels, latch and tables alone. -/
theorem formed_congr {t : State} {d : CtxId} {i : SlotId} (p : ProfileId) (lane : LaneId) (levels : t.slots[i].levels = s.slots[i].levels)
    (latched : t.groups[g].latched = s.groups[g].latched) (configs : t.configs = s.configs) (lanes : t.lanes = s.lanes)
    (profiles : t.profiles = s.profiles) (clock : t.clock = s.clock) :
    formed t g d i p lane = formed s g d i p lane := by
  have entries : firedEntries t g p = firedEntries s g p := by
    unfold firedEntries
    rw [latched, profiles]
  simp only [formed, levels, entries, configs, lanes, clock]

theorem formed_opened {d : CtxId} {i : SlotId} (p : ProfileId) (lane : LaneId) :
    formed (opened g c s) g d i p lane = formed s g d i p lane :=
  formed_congr p lane (by rw [opened_slot]) rfl rfl rfl rfl rfl

end

end Sys2Proof.Machine
end

section
/-! SUPPORT. Proofs/FiredLines.lean: a delivered event at a READY line (O23, O24). -/

namespace Sys2Proof.Machine

open Sys2Proof Sys2Proof.Claims

/-- The running job with the cut counted. -/
abbrev cutJob (s : State) (g : GroupId) (c : CtxId) (j : Job) : Job := { j with clipped := clippedAfter s g c j }

section
variable {s : State} {g : GroupId} {c : CtxId} {j : Job}

theorem runLine_ready {i : SlotId} {k : Nat} {n : Nat} (at_ : slotAt s c (j.firePos % j.depth) = some i) (ready : s.slots[i].state = .ready c k n) :
    runLine g c j s = fireLine g c j i s := by
  unfold runLine
  rw [at_]
  dsimp only
  rw [ready]
  rfl

theorem deliver_running {rest : List CtxId} (front : AtFront s g c rest j) (running : j.state = .running) :
    (opened g c s).jobs[c] = some (cutJob s g c j) ∧
    deliver g s = concluded g true (runLine g c (cutJob s g c j) (opened g c s)) := by
  have live : clippedJob s g c j = cutJob s g c j := clippedJob_live (by rw [running]; nofun)
  have at_front := front_of_atFront front
  refine ⟨live ▸ opened_some at_front.2, ?_⟩
  rw [deliver_eq, listHas_running at_front running, actOnFront_running at_front running, live]

end

section
variable {s : State} {g : GroupId} {c : CtxId} {rest : List CtxId} {j : Job} {i : SlotId} (h : Fires s g c rest j i)
include h

theorem deliver_fires : (opened g c s).jobs[c] = some (cutJob s g c j) ∧
    deliver g s = concluded g true (fireLine g c (cutJob s g c j) i (opened g c s)) := by
  obtain ⟨front, running, at_, n, ready⟩ := h
  obtain ⟨job, event⟩ := deliver_running front running
  refine ⟨job, event.trans (congrArg (concluded g true) (runLine_ready (k := j.firePos % j.depth) (n := n) ((slotAt_opened c _).trans at_) ?_))⟩
  rw [opened_slot, ready]
  rfl

/-- A line that is not the last, or forms a pulse, leaves its job at the front. -/
theorem deliver_fires_on (on : ¬ LastLine j ∨ ∃ lane, formed s g c i j.profile lane ≠ .none) :
    ∃ st, (¬ LastLine j → st = .running) ∧ (LastLine j → st = .finishing) ∧
      deliver g s = { fired g c (cutJob s g c j) i (opened g c s) with
        jobs := (opened g c s).jobs.set c (some { firedJob (roomOf s) (cutJob s g c j) with state := st }) } := by
  obtain ⟨job, event⟩ := deliver_fires h
  obtain ⟨front, running, -⟩ := h
  have first := (front_of_atFront front).1
  rw [event]
  by_cases last : LastLine j
  · have pulse := on.resolve_left (not_not.mpr last)
    simp only [← formed_opened (s := s) (c := c)] at pulse
    refine ⟨.finishing, absurd last, fun _ => rfl, ?_⟩
    rw [fireLine_finishes (j := cutJob s g c j) job last pulse]
    exact concluded_busy (mayStart_none ⟨first, jobs_set_self ..⟩ (.inl nofun))
  · refine ⟨.running, fun _ => rfl, fun yes => absurd yes last, ?_⟩
    rw [fireLine_continues (j := cutJob s g c j) job last, ← running]
    refine concluded_busy (mayStart_none (g := g) (c := c) (j := firedJob (roomOf s) (cutJob s g c j)) ⟨first, jobs_set_self ..⟩ (.inl ?_))
    show j.state ≠ .armed
    rw [running]
    nofun

end

/-! ## O24 -/

/-- The pulses of a line after the cut: those it formed within the span, the others untouched. -/
theorem firedPulses_cut {s t : State} {g : GroupId} {c : CtxId} {i : SlotId} {p : ProfileId} (lane : LaneId)
    (cut : t.pulses[lane] = cutPulse s g lane) (same : formed t g c i p lane = formed s g c i p lane) :
    (firedPulses t g c i p)[lane] = if inSpan s.configs[g] lane.val = true then formed s g c i p lane else s.pulses[lane] := by
  rw [firedPulses_get, same, cut, cutPulse]
  by_cases span : inSpan s.configs[g] lane.val = true
  · rw [if_pos span, if_pos span]
    split
    · exact Eq.symm ‹_›
    · rfl
  · rw [if_neg span, if_neg span, if_pos (not_not.mp (mt formed_span span))]

theorem effectiveDelay_bounds {delay : Short} (trim : BitVec 8) (h : delay.toNat ≤ 4095) :
    1 ≤ effectiveDelay delay trim ∧ effectiveDelay delay trim ≤ 4222 := by
  have low := BitVec.le_toInt trim
  have high := BitVec.toInt_lt (x := trim)
  unfold effectiveDelay
  omega

/-- Settles O24. -/
theorem pulsesFormedFromLatchedEntries : Obligations.PulsesFormedFromLatchedEntries := by
  refine ⟨fun s g c rest j i fires on lane => ?_, fun delay trim h => effectiveDelay_bounds trim h⟩
  obtain ⟨st, -, -, event⟩ := deliver_fires_on fires on
  rw [event]
  exact firedPulses_cut lane (opened_pulse lane) (formed_opened j.profile lane)

/-! ## O23 -/

theorem firedJob_cut (s : State) (g : GroupId) (c : CtxId) (j : Job) (st : JobState) :
    SameJob j { firedJob (roomOf s) (cutJob s g c j) with state := st } := ⟨rfl, rfl, rfl, rfl, rfl, rfl, rfl⟩

/-- What a line that leaves its job at the front changes beside it. -/
theorem fired_frame {s t : State} {g : GroupId} {c : CtxId} {j : Job} {i : SlotId} {jobs : Vector (Option Job) 16}
    (h : t = { fired g c (cutJob s g c j) i (opened g c s) with jobs := jobs }) :
    (∀ n : SlotId, t.slots[n].levels = s.slots[n].levels ∧
      t.slots[n].state = if n = i then .firing c (j.firePos % j.depth) j.firePos else unfired c s.slots[n].state) ∧
    t.groups[g] = { s.groups[g] with
      latched := some { number := j.profile, generation := s.profiles[j.profile].generation, entries := firedEntries s g j.profile } } ∧
    (∀ h : GroupId, h ≠ g → t.groups[h] = s.groups[h]) ∧
    t.holding = s.holding ++ (if MarkDue j ∧ roomOf s ≠ 0 then [CompRecord.mark j.tag (counted j.linesFired)] else []) := by
  have slots (n : SlotId) : t.slots[n] =
      if n = i then { (opened g c s).slots[i] with state := .firing c (j.firePos % j.depth) j.firePos } else (opened g c s).slots[n] := by
    subst h
    exact vmod_getElem _ i n fun (x : Slot) => { x with state := .firing c (j.firePos % j.depth) j.firePos }
  have groups (k : GroupId) : t.groups[k] =
      if k = g then { s.groups[g] with latched := some (latchFor s g j.profile) } else s.groups[k] := by
    subst h
    exact vmod_getElem s.groups g k fun (x : GroupState) => { x with latched := some (latchFor s g j.profile) }
  refine ⟨fun n => ?_, (groups g).trans (if_pos rfl), fun k other => (groups k).trans (if_neg other), by rw [h]; rfl⟩
  rw [slots]
  by_cases same : n = i
  · subst same
    rw [if_pos rfl, if_pos rfl, opened_slot]
    exact ⟨rfl, rfl⟩
  · rw [if_neg same, if_neg same, opened_slot]
    exact ⟨rfl, rfl⟩

/-- Settles O23. -/
theorem deliveredEventFiresReadyLine : Obligations.DeliveredEventFiresReadyLine := by
  intro s g c rest j i fires
  have lineFrame := deliver_frame g s
  by_cases on : ¬ LastLine j ∨ ∃ lane, formed s g c i j.profile lane ≠ .none
  · obtain ⟨st, running, finishing, event⟩ := deliver_fires_on fires on
    refine ⟨{ firedJob (roomOf s) (cutJob s g c j) with state := st }, by rw [event]; exact jobs_set_self .., firedJob_cut s g c j st, rfl, rfl, rfl, rfl,
      rfl, rfl, running, fun last _ => finishing last,
      fun last none => on.elim (fun no => absurd last no) fun ⟨lane, pulse⟩ => absurd (none lane) pulse, fun _ => ?_⟩
    obtain ⟨slots, latched, groups, holding⟩ := fired_frame event
    exact ⟨slots, latched, groups, holding, by rw [event]; rfl, by rw [event]; rfl, by rw [event]; rfl, by rw [event]; rfl, lineFrame⟩
  · have last : LastLine j := not_not.mp fun no => on (.inl no)
    have none : ∀ lane, formed s g c i j.profile lane = .none := fun lane => not_not.mp fun some => on (.inr ⟨lane, some⟩)
    obtain ⟨job, event⟩ := deliver_fires fires
    obtain ⟨⟨-, -, -, group⟩, -⟩ := fires
    rw [fireLine_ends (j := cutJob s g c j) job last fun lane => (formed_opened _ lane).trans (none lane)] at event
    obtain ⟨gone, ring⟩ := concluded_endJob .ended true
      (fired_job (g := g) (c := c) (j := cutJob s g c j) (i := i) (s := opened g c s)) group
    rw [event]
    exact ⟨_, gone, ⟨rfl, rfl, rfl, rfl, rfl, rfl, rfl⟩, rfl, rfl, rfl, rfl, rfl, rfl, fun no => absurd last no,
      fun _ ⟨lane, pulse⟩ => absurd (none lane) pulse, fun _ _ => ⟨rfl, ring⟩, fun h => absurd h on⟩

end Sys2Proof.Machine
end

section
/-! SUPPORT. Proofs/UnderrunEvents.lean: a delivered event at which the line is not READY (O25). -/

namespace Sys2Proof.Machine

open Sys2Proof Sys2Proof.Claims

section
variable {s : State} {g : GroupId} {c : CtxId} {j : Job}

theorem slotReady_unfired (x : SlotState) : slotReady (unfired c x) = slotReady x := by
  cases x with
  | firing o k n =>
    by_cases same : o = c
    · subst same
      have empty : unfired o (.firing o k n) = .empty o k := if_pos rfl
      rw [empty]
      rfl
    · exact congrArg slotReady (if_neg same)
  | free | empty | filling | ready | stale | discard => rfl

theorem runLine_not_ready (h : NotReady s c j) : runLine g c j s = underrun c j (slotAt s c (j.firePos % j.depth)) s := by
  unfold runLine
  cases at_ : slotAt s c (j.firePos % j.depth) with
  | none => rfl
  | some i =>
    dsimp only
    rw [h i at_]
    rfl

theorem notReady_opened (h : NotReady s c j) : NotReady (opened g c s) c (cutJob s g c j) := fun i at_ => by
  rw [slotAt_opened] at at_
  rw [opened_slot]
  exact (slotReady_unfired _).trans (h i at_)

theorem deliver_underrun {rest : List CtxId} (front : AtFront s g c rest j) (running : j.state = .running) (not : NotReady s c j) :
    (opened g c s).jobs[c] = some (cutJob s g c j) ∧
    deliver g s = concluded g true (underrun c (cutJob s g c j) (slotAt s c (j.firePos % j.depth)) (opened g c s)) := by
  obtain ⟨job, event⟩ := deliver_running front running
  refine ⟨job, ?_⟩
  rw [event, runLine_not_ready (notReady_opened not), slotAt_opened]

/-- Where the front job's line formed no pulse, only a job that starts after it can have formed one. -/
theorem concluded_cut {r : State} {m : Job} (b : Bool) (pulses : r.pulses = (opened g c s).pulses) (configs : r.configs = s.configs)
    (job : r.jobs[c] = some m) (state : m.state ≠ .armed) :
    ((∀ d m, (concluded g b r).lists[g].head? = some d → (concluded g b r).jobs[d] = some m → FirstClass m → d = c) →
      ∀ lane : LaneId, inSpan s.configs[g] lane.val = true → (concluded g b r).pulses[lane] = .none) ∧
    (∀ lane : LaneId, inSpan s.configs[g] lane.val = false → (concluded g b r).pulses[lane] = s.pulses[lane]) := by
  have cut (lane : LaneId) : r.pulses[lane] = cutPulse s g lane := by
    simp only [pulses]
    exact opened_pulse lane
  refine ⟨fun alone lane span => ?_, fun lane outside => ?_⟩
  · rcases concluded_pulses g b r lane with same | ⟨-, d, n, ⟨-, here⟩, armed, k, ⟨first, now⟩, cls⟩
    · exact same.trans ((cut lane).trans (if_pos span))
    · obtain rfl := alone d k first now cls
      cases job.symm.trans here
      exact absurd armed state
  · rcases concluded_pulses g b r lane with same | ⟨span, -⟩
    · exact same.trans ((cut lane).trans (if_neg (by rw [outside]; nofun)))
    · rw [configs, outside] at span
      cases span

end

/-! ## The three ways of an underrun -/

section
variable {s : State} {c : CtxId} {j : Job} (job : s.jobs[c] = some j) (slot : Option SlotId)
include job

theorem underrun_held (h : j.policy = .hold ∨ j.policy = .skip ∧ j.supplied ≤ j.firePos) :
    underrun c j slot s = { s with jobs := s.jobs.set c (some { j with heldEvents := counted j.heldEvents }) } := by
  rw [← chargeHeld_eq job]
  unfold underrun
  rcases h with hold | ⟨skip, nothing⟩
  · rw [hold]
  · rw [skip]
    exact if_neg (Nat.not_lt.mpr nothing)

theorem underrun_passes (skip : j.policy = .skip) (more : j.firePos < j.supplied) (last : ¬ LastLine j) :
    underrun c j slot s = chargeSkip c (skipSlot c j.firePos slot s) := by
  obtain ⟨m, notices, e, -, -, -, -, -, opened, supplied, firePos, -, -⟩ := skip_cases job j.firePos slot
  have now : (chargeSkip c (skipSlot c j.firePos slot s)).jobs[c] = some m := by rw [e]; exact jobs_set_self ..
  unfold underrun
  rw [skip]
  refine (if_pos more).trans ?_
  rw [skipEndTest, now]
  exact if_neg (by rw [opened, supplied, firePos]; exact last)

theorem underrun_passes_last (skip : j.policy = .skip) (last : LastLine j) :
    ∃ m, (chargeSkip c (skipSlot c j.firePos slot s)).jobs[c] = some m ∧
      underrun c j slot s = endJob c .ended (chargeSkip c (skipSlot c j.firePos slot s)) ∧ SameJob j m ∧
      m.linesFired = j.linesFired ∧ m.clipped = j.clipped ∧ m.heldEvents = j.heldEvents ∧ m.firePos = j.firePos + 1 ∧
      m.linesSkipped = counted j.linesSkipped := by
  obtain ⟨m, notices, e, same, fired, clip, held, -, opened, supplied, firePos, skipped, -⟩ := skip_cases job j.firePos slot
  have now : (chargeSkip c (skipSlot c j.firePos slot s)).jobs[c] = some m := by rw [e]; exact jobs_set_self ..
  refine ⟨m, now, ?_, same, fired, clip, held, firePos, skipped⟩
  unfold underrun
  rw [skip]
  refine (if_pos (by have := last.2; omega)).trans ?_
  rw [skipEndTest, now]
  exact if_pos (by rw [opened, supplied, firePos]; exact last)

end

theorem underrun_stops {j : Job} (c : CtxId) (slot : Option SlotId) (s : State) (stop : j.policy = .stop) :
    underrun c j slot s = endJob c .underrun s := by
  unfold underrun
  rw [stop]

/-- After an underrun the job is RUNNING still, or has ended. -/
theorem underrun_not_armed {s : State} {c : CtxId} {j : Job} (job : s.jobs[c] = some j) (running : j.state = .running)
    (slot : Option SlotId) : ∃ m, (underrun c j slot s).jobs[c] = some m ∧ m.state ≠ .armed := by
  have ended {t : State} {m : Job} (st : EndStatus) (now : t.jobs[c] = some m) : ∃ m, (endJob c st t).jobs[c] = some m ∧ m.state ≠ .armed :=
    ⟨_, (endJob_spec st now).1, nofun⟩
  have still : j.state ≠ .armed := by rw [running]; nofun
  by_cases stop : j.policy = .stop
  · rw [underrun_stops c slot s stop]
    exact ended .underrun job
  · by_cases held : j.policy = .hold ∨ j.policy = .skip ∧ j.supplied ≤ j.firePos
    · rw [underrun_held job slot held]
      exact ⟨_, jobs_set_self .., still⟩
    · obtain ⟨not_hold, skips⟩ := not_or.mp held
      have skip : j.policy = .skip := by
        cases policy : j.policy with
        | skip => rfl
        | hold => exact absurd policy not_hold
        | stop => exact absurd policy stop
      have more : j.firePos < j.supplied := Nat.not_le.mp fun le => skips ⟨skip, le⟩
      by_cases last : LastLine j
      · obtain ⟨m, now, e, -⟩ := underrun_passes_last job slot skip last
        rw [e]
        exact ended .ended now
      · obtain ⟨m, notices, e, -, -, -, -, state, -⟩ := skip_cases job j.firePos slot
        rw [underrun_passes job slot skip more last, e]
        exact ⟨m, jobs_set_self .., state ▸ still⟩

/-! ## O25 -/

section
variable {s : State} {g : GroupId} {c : CtxId} {rest : List CtxId} {j : Job} (front : AtFront s g c rest j)
  (running : j.state = .running) (not : NotReady s c j)
include front running not

/-- A job that is still RUNNING after the underrun keeps its place. -/
theorem deliver_underrun_stays {m : Job}
    (lists : (underrun c (cutJob s g c j) (slotAt s c (j.firePos % j.depth)) (opened g c s)).lists = s.lists)
    (job : (underrun c (cutJob s g c j) (slotAt s c (j.firePos % j.depth)) (opened g c s)).jobs[c] = some m) (state : m.state = j.state) :
    deliver g s = underrun c (cutJob s g c j) (slotAt s c (j.firePos % j.depth)) (opened g c s) := by
  obtain ⟨-, event⟩ := deliver_underrun front running not
  rw [event]
  refine concluded_busy (mayStart_none (c := c) ⟨?_, job⟩ (.inl (by rw [state, running]; nofun)))
  rw [lists]
  exact (front_of_atFront front).1

theorem deliver_held (h : j.policy = .hold ∨ j.policy = .skip ∧ j.supplied ≤ j.firePos) :
    deliver g s = { opened g c s with jobs := (opened g c s).jobs.set c (some { cutJob s g c j with heldEvents := counted j.heldEvents }) } := by
  have held := underrun_held (deliver_underrun front running not).1 (slotAt s c (j.firePos % j.depth)) h
  rw [deliver_underrun_stays front running not (m := { cutJob s g c j with heldEvents := counted j.heldEvents }) (by rw [held]; rfl)
    (by rw [held]; exact jobs_set_self ..) rfl]
  exact held

/-- A skip that leaves lines to come, of a line that is being read. -/
theorem deliver_skips_filling (skip : j.policy = .skip) (more : j.firePos < j.supplied) (last : ¬ LastLine j) {i : SlotId} {n : Nat}
    (at_ : slotAt s c (j.firePos % j.depth) = some i) (filling : s.slots[i].state = .filling c (j.firePos % j.depth) n) :
    deliver g s = { opened g c s with
      slots := (opened g c s).slots.set i { (opened g c s).slots[i] with state := .stale c (j.firePos % j.depth) n }
      jobs := (opened g c s).jobs.set c (some (passedJob (cutJob s g c j))) } := by
  obtain ⟨job, -⟩ := deliver_underrun front running not
  have passes := underrun_passes job (slotAt s c (j.firePos % j.depth)) skip more last
  have now : (opened g c s).slots[i].state = .filling c (j.firePos % j.depth) n := by
    rw [opened_slot, filling]
    rfl
  have eq := passes.trans (at_ ▸ skip_filling job j.firePos now)
  rw [deliver_underrun_stays front running not (m := passedJob (cutJob s g c j)) (by rw [eq]; rfl) (by rw [eq]; exact jobs_set_self ..) rfl]
  exact eq

/-- A skip that leaves lines to come, of a line that is not being read. -/
theorem deliver_skips_other (skip : j.policy = .skip) (more : j.firePos < j.supplied) (last : ¬ LastLine j)
    (other : ∀ i n, slotAt s c (j.firePos % j.depth) = some i → s.slots[i].state ≠ .filling c (j.firePos % j.depth) n) :
    deliver g s = { opened g c s with
      jobs := (opened g c s).jobs.set c (some (settledJob j.firePos (roomOf s)
        { passedJob (cutJob s g c j) with cursor := max j.cursor (j.firePos + 1) }))
      holding := s.holding ++ settledNotices j.firePos (roomOf s) j } := by
  obtain ⟨job, -⟩ := deliver_underrun front running not
  have passes := underrun_passes job (slotAt s c (j.firePos % j.depth)) skip more last
  have none_filling : ∀ i o k n, slotAt s c (j.firePos % j.depth) = some i → (opened g c s).slots[i].state ≠ .filling o k n := by
    intro i o k n at_ filling
    have place := slotAt_some ((slotAt_opened (g := g) (c := c) c _).trans at_)
    rw [filling] at place
    cases place
    refine other i n at_ ?_
    rw [opened_slot] at filling
    cases state : s.slots[i].state with
    | firing o k n =>
      dsimp only at filling
      rw [state, unfired] at filling
      split at filling <;> cases filling
    | filling | free | empty | ready | stale | discard =>
      dsimp only at filling
      rw [state] at filling
      exact filling
  have eq := passes.trans (skip_other job j.firePos none_filling)
  rw [deliver_underrun_stays front running not (m := settledJob j.firePos (roomOf s)
    { passedJob (cutJob s g c j) with cursor := max j.cursor (j.firePos + 1) }) (by rw [eq]; rfl) (by rw [eq]; exact jobs_set_self ..) rfl]
  exact eq

theorem deliver_underrun_cut :
    ((∀ d m, (deliver g s).lists[g].head? = some d → (deliver g s).jobs[d] = some m → FirstClass m → d = c) →
      ∀ lane : LaneId, inSpan s.configs[g] lane.val = true → (deliver g s).pulses[lane] = .none) ∧
    (∀ lane : LaneId, inSpan s.configs[g] lane.val = false → (deliver g s).pulses[lane] = s.pulses[lane]) := by
  obtain ⟨job, event⟩ := deliver_underrun front running not
  obtain ⟨m, now, state⟩ := underrun_not_armed job running (slotAt s c (j.firePos % j.depth))
  have frame := underrun_frame c (cutJob s g c j) (slotAt s c (j.firePos % j.depth)) (opened g c s)
  have configs := congrArg State.configs frame
  rw [event]
  exact concluded_cut true (underrun_pulses job _) configs now state

end

/-- Settles O25. -/
theorem underrunFollowsPolicy : Obligations.UnderrunFollowsPolicy := by
  intro s g c rest j front running not
  obtain ⟨job, event⟩ := deliver_underrun front running not
  obtain ⟨alone, outside⟩ := deliver_underrun_cut front running not
  have group : (cutJob s g c j).group = g := front.2.2.2
  have opened_slots (n : SlotId) := opened_slot (s := s) (g := g) (c := c) n
  by_cases held : j.policy = .hold ∨ j.policy = .skip ∧ j.supplied ≤ j.firePos
  · have e := deliver_held front running not held
    have not_stop : j.policy ≠ .stop := by rcases held with h | ⟨h, -⟩ <;> rw [h] <;> nofun
    refine ⟨_, { cutJob s g c j with heldEvents := counted j.heldEvents }, rfl, by rw [e]; exact jobs_set_self .., ⟨rfl, rfl, rfl, rfl, rfl, rfl, rfl⟩, rfl, rfl,
      fun _ => ⟨rfl, fun n => ?_, by rw [e]; rfl, by rw [e]; rfl, by rw [e]; rfl, by rw [e]; rfl, by rw [e]; rfl⟩, fun skip more => ?_,
      fun stop => absurd stop not_stop, alone, outside, deliver_frame g s⟩
    · rw [e]
      exact opened_slots n
    · rcases held with hold | ⟨-, nothing⟩
      · rw [skip] at hold
        cases hold
      · exact absurd more (Nat.not_lt.mpr nothing)
  · by_cases stop : j.policy = .stop
    · have not_skip : j.policy ≠ .skip := by rw [stop]; nofun
      rw [underrun_stops (j := cutJob s g c j) c _ _ stop] at event
      obtain ⟨gone, ring⟩ := concluded_endJob .underrun true job group
      rw [← event] at gone ring
      exact ⟨_, _, rfl, gone, ⟨rfl, rfl, rfl, rfl, rfl, rfl, rfl⟩, rfl, rfl, fun h => absurd h held,
        fun skip => absurd skip not_skip, fun _ => ⟨rfl, rfl, rfl, rfl, ring⟩, alone, outside, deliver_frame g s⟩
    · have skip : j.policy = .skip := by
        cases policy : j.policy with
        | skip => rfl
        | hold => exact absurd (.inl policy) held
        | stop => exact absurd policy stop
      have more : j.firePos < j.supplied := Nat.not_le.mp fun le => held (.inr ⟨skip, le⟩)
      by_cases last : LastLine j
      · obtain ⟨m, now, ends, same, fired, clip, heldEvents, firePos, skipped⟩ :=
          underrun_passes_last job (slotAt s c (j.firePos % j.depth)) skip last
        rw [ends] at event
        obtain ⟨gone, ring⟩ := concluded_endJob .ended true now (same.2.1.trans group)
        rw [← event] at gone ring
        exact ⟨_, _, rfl, gone, same, clip, fired, fun h => absurd h held,
          fun _ _ => ⟨firePos, skipped, heldEvents, fun _ _ => ⟨rfl, ring⟩, fun no => absurd last no⟩, fun h => absurd h stop, alone, outside,
          deliver_frame g s⟩
      · by_cases filling : ∃ i n, slotAt s c (j.firePos % j.depth) = some i ∧ s.slots[i].state = .filling c (j.firePos % j.depth) n
        · obtain ⟨i, n, at_, filling⟩ := filling
          have e := deliver_skips_filling front running not skip more last at_ filling
          refine ⟨_, passedJob (cutJob s g c j), rfl, by rw [e]; exact jobs_set_self .., ⟨rfl, rfl, rfl, rfl, rfl, rfl, rfl⟩, rfl, rfl,
            fun h => absurd h held, fun _ _ => ⟨rfl, rfl, rfl, fun isOpen lines => absurd ⟨isOpen, lines⟩ last, fun _ => ⟨fun i' n' here now => ?_,
              fun other => absurd filling (other i n at_), by rw [e]; rfl, by rw [e]; rfl, by rw [e]; rfl, by rw [e]; rfl⟩⟩,
            fun h => absurd h stop, alone, outside, deliver_frame g s⟩
          cases at_.symm.trans here
          cases filling.symm.trans now
          refine ⟨rfl, fun x => ?_, by rw [e]; rfl⟩
          rw [e]
          refine (vmod_getElem _ i x fun (y : Slot) => { y with state := .stale c (j.firePos % j.depth) n }).trans ?_
          by_cases same : x = i
          · subst same
            rw [if_pos rfl, if_pos rfl, opened_slots]
          · rw [if_neg same, if_neg same, opened_slots]
        · have other : ∀ i n, slotAt s c (j.firePos % j.depth) = some i → s.slots[i].state ≠ .filling c (j.firePos % j.depth) n :=
            fun i n at_ now => filling ⟨i, n, at_, now⟩
          have e := deliver_skips_other front running not skip more last other
          exact ⟨_, settledJob j.firePos (roomOf s) { passedJob (cutJob s g c j) with cursor := max j.cursor (j.firePos + 1) }, rfl,
            by rw [e]; exact jobs_set_self .., ⟨rfl, rfl, rfl, rfl, rfl, rfl, rfl⟩, rfl, rfl,
            fun h => absurd h held, fun _ _ => ⟨rfl, rfl, rfl, fun isOpen lines => absurd ⟨isOpen, lines⟩ last, fun _ =>
              ⟨fun i n at_ now => absurd now (other i n at_), fun _ => ⟨rfl, fun x => by rw [e]; exact opened_slots x, by rw [e]⟩,
                by rw [e]; rfl, by rw [e]; rfl, by rw [e]; rfl, by rw [e]; rfl⟩⟩,
            fun h => absurd h stop, alone, outside, deliver_frame g s⟩

end Sys2Proof.Machine
end

section
/-! SUPPORT. Proofs/Handover.lean: the job that starts as another ends at the event, and the job that does not (O26). -/

namespace Sys2Proof.Machine

open Sys2Proof Sys2Proof.Claims

/-! ## Grants start no job and fill no slot -/

theorem not_firstClass {m : Job} (running : m.state ≠ .running) (finishing : m.state ≠ .finishing) : ¬ FirstClass m :=
  not_or.mpr ⟨running, finishing⟩

/-- A grant leaves its job PRIMED, or ARMED where a slot of its ring stands READY. -/
theorem grantTo_job {c : CtxId} {j : Job} {s : State} (d : Nat) (rest : List CtxId) (job : s.jobs[c] = some j) :
    (grantTo c d rest s).jobs[c] = some { j with state := .primed } ∨
    (grantTo c d rest s).jobs[c] = some { j with state := .armed } ∧
      ∃ (i : SlotId) (k : Nat), ringPlace (grantTo c d rest s).slots[i].state = some (c, k) ∧ slotReady (grantTo c d rest s).slots[i].state = true := by
  let w := setWait rest (assignRing c 0 ((freeSlots s).take d) s)
  have jobs : w.jobs = s.jobs := by
    have e := congrArg State.jobs (assignRing_spec c ((freeSlots s).take d) ((freeSlots_nodup s).take) 0 s).2.2
    exact e
  have primed : setJobState c .primed w = { w with jobs := w.jobs.set c (some { j with state := .primed }) } :=
    modJob_some _ (by rw [jobs]; exact job)
  obtain ⟨k, tested, stored⟩ := armTest_stored c { j with state := .primed } w
  have whole : grantTo c d rest s = { w with jobs := w.jobs.set c (some k) } := by
    show armTest c (setJobState c .primed w) = _
    rw [primed, stored]
  rw [whole]
  by_cases arms : ArmsNow w c { j with state := .primed }
  · right
    obtain ⟨atleast, ready⟩ := id arms
    obtain ⟨i, at_, full⟩ := ready 0 atleast
    exact ⟨(jobs_set_self ..).trans (congrArg some (tested.1 ⟨rfl, arms⟩)), i, _, slotAt_some at_, full⟩
  · exact .inl ((jobs_set_self ..).trans (congrArg some (tested.2 fun both => arms both.2)))

theorem grantTo_job_ne {c e : CtxId} (d : Nat) (rest : List CtxId) (s : State) (h : e ≠ c) : (grantTo c d rest s).jobs[e] = s.jobs[e] := by
  have jobs : (setWait rest (assignRing c 0 ((freeSlots s).take d) s)).jobs = s.jobs := by
    have e := congrArg State.jobs (assignRing_spec c ((freeSlots s).take d) ((freeSlots_nodup s).take) 0 s).2.2
    exact e
  rw [grantTo, armTest_get_ne _ h, setJobState_get, if_neg h, jobs]

/-- What holds of a state and is kept by a grant holds after the grant rule. -/
theorem grantLoop_induction {P : State → Prop} (step : ∀ s c rest j, s.slotWait = c :: rest → s.jobs[c] = some j → P s →
    P (grantTo c j.depth rest s)) (n : Nat) (s : State) (h : P s) : P (grantLoop n s) := by
  induction n generalizing s with
  | zero => exact h
  | succ n ih =>
    unfold grantLoop
    split
    · exact h
    · rename_i c rest wait
      split
      · exact h
      · rename_i j job
        split
        · exact ih _ (step s c rest j wait job h)
        · exact h

/-- A job that may not start: neither RUNNING nor FINISHING nor ARMED, with no READY slot. -/
structure Unready (d : CtxId) (s : State) : Prop where
  job : ∀ m, s.jobs[d] = some m → ¬ FirstClass m ∧ m.state ≠ .armed
  ring : ∀ (i : SlotId) k, ringPlace s.slots[i].state = some (d, k) → slotReady s.slots[i].state = false

theorem grant_unready {d : CtxId} {s : State} (h : Unready d s) : Unready d (grant s) := by
  refine grantLoop_induction (fun s c rest j wait job h => ?_) _ s h
  have ring : ∀ (i : SlotId) k, ringPlace (grantTo c j.depth rest s).slots[i].state = some (d, k) →
      slotReady (grantTo c j.depth rest s).slots[i].state = false := fun i k place => by
    obtain ⟨-, -, -, -, -, slots⟩ := grantTo_grant j.depth s wait
    rcases slots i with same | ⟨-, x, -, n, given⟩
    · rw [same] at place ⊢
      exact h.ring i k place
    · rw [given]
      rfl
  refine ⟨fun m now => ?_, ring⟩
  by_cases same : d = c
  · subst same
    rcases grantTo_job j.depth rest job with primed | ⟨-, i, k, place, ready⟩
    · cases primed.symm.trans now
      exact ⟨not_firstClass nofun nofun, nofun⟩
    · rw [ring i k place] at ready
      cases ready
  · rw [grantTo_job_ne _ _ _ same] at now
    exact h.job m now

/-- The grant rule makes no job RUNNING or FINISHING. -/
theorem grant_firstClass {e : CtxId} {s : State} (h : ∀ m, s.jobs[e] = some m → ¬ FirstClass m) :
    ∀ m, (grant s).jobs[e] = some m → ¬ FirstClass m := by
  refine grantLoop_induction (P := fun s => ∀ m, s.jobs[e] = some m → ¬ FirstClass m) (fun s c rest j wait job h m now => ?_) _ s h
  by_cases same : e = c
  · subst same
    rcases grantTo_job j.depth rest job with primed | ⟨armed, -⟩
    · cases primed.symm.trans now
      exact not_firstClass nofun nofun
    · cases armed.symm.trans now
      exact not_firstClass nofun nofun
  · rw [grantTo_job_ne _ _ _ same] at now
    exact h m now

/-! ## The other jobs as one ends -/

section
variable {s : State} {c d : CtxId} {j : Job} (st : EndStatus)

theorem leaving_not_first (other : d ≠ c) (h : ∀ m, s.jobs[d] = some m → ¬ FirstClass m) :
    ∀ m, (leaving c st j.group s).jobs[d] = some m → ¬ FirstClass m := fun m now => by
  rw [leaving_jobs_ne c st j.group s other] at now
  split at now
  · obtain ⟨k, -, rfl⟩ := Option.map_eq_some_iff.mp now
    exact not_firstClass nofun nofun
  · exact h m now

variable (job : s.jobs[c] = some j) (other : d ≠ c)
include job other

theorem endJob_not_first (h : ∀ m, s.jobs[d] = some m → ¬ FirstClass m) : ∀ m, (endJob c st s).jobs[d] = some m → ¬ FirstClass m := by
  rw [(endJob_offer st job).fields.1]
  exact grant_firstClass (leaving_not_first st other h)

theorem endJob_unready {m : Job} (here : s.jobs[d] = some m) (waiting : m.state = .waiting) (ring : NoRing s d) :
    Unready d (endJob c st s) := by
  have left : Unready d (leaving c st j.group s) := by
    refine ⟨fun k now => ⟨leaving_not_first st other (fun n e => ?_) k now, ?_⟩, fun i k place => ?_⟩
    · cases here.symm.trans e
      exact not_firstClass (by rw [waiting]; nofun) (by rw [waiting]; nofun)
    · rw [leaving_jobs_ne c st j.group s other, here] at now
      split at now
      · cases now
        nofun
      · cases now
        rw [waiting]
        nofun
    · rw [leaving_slots] at place
      rcases freed_cases c s.slots[i].state with same | ⟨-, gone⟩
      · exact absurd (same ▸ place) (ring i k)
      · rcases gone with e | e <;> rw [show ({ s.slots[i] with state := freed c s.slots[i].state } : Slot).state = _ from e] at place <;> cases place
  obtain ⟨jobs, -, slots, -⟩ := (endJob_offer st job).fields
  have after : Unready d (granted c st j.group s) := grant_unready left
  exact ⟨by rw [jobs]; exact after.job, by rw [slots]; exact after.ring⟩

end

/-! ## A job that starts (R12) -/

/-- What the start of a job needs of the state it finds, for the event that began in another. -/
structure Startable (s t : State) (g : GroupId) (d : CtxId) (m : Job) (i : SlotId) : Prop where
  job : t.jobs[d] = some (cutJob s g d m)
  group : m.group = g
  slot : slotAt t d (m.firePos % m.depth) = some i
  ready : ∃ n, t.slots[i].state = .ready d (m.firePos % m.depth) n
  pulses : ∀ lane : LaneId, t.pulses[lane] = cutPulse s g lane
  counters : t.groups[g].counters = s.groups[g].counters
  formed : ∀ lane, formed t g d i m.profile lane = formed s g d i m.profile lane

section
variable {s t : State} {g : GroupId} {d : CtxId} {m : Job} {i : SlotId} (h : Startable s t g d m i)
include h

/-- The job as it runs its first line. -/
theorem startFiring_fires : ∃ u, u = { t with jobs := t.jobs.set d (some { cutJob s g d m with state := .running }) } ∧
    startFiring g d (cutJob s g d m) t = fireLine g d { cutJob s g d m with state := .running } i u := by
  have started : setJobState d .running t = { t with jobs := t.jobs.set d (some { cutJob s g d m with state := .running }) } :=
    modJob_some _ h.job
  obtain ⟨n, ready⟩ := h.ready
  refine ⟨_, rfl, ?_⟩
  rw [startFiring, started]
  exact runLine_ready (s := { t with jobs := t.jobs.set d (some { cutJob s g d m with state := .running }) }) h.slot ready

theorem startFiring_started {list : List CtxId} (lists : t.lists[g] = list) :
    Started s (startFiring g d (cutJob s g d m) t) g d m i list := by
  obtain ⟨u, eq, fires⟩ := startFiring_fires h
  have job : u.jobs[d] = some { cutJob s g d m with state := .running } := by rw [eq]; exact jobs_set_self ..
  have same (lane : LaneId) : formed u g d i m.profile lane = formed s g d i m.profile lane := by rw [eq]; exact h.formed lane
  have pulses (lane : LaneId) : (firedPulses u g d i m.profile)[lane] =
      if inSpan s.configs[g] lane.val = true then formed s g d i m.profile lane else s.pulses[lane] :=
    firedPulses_cut lane (by rw [eq]; exact h.pulses lane) (same lane)
  have lists : u.lists[g] = list := by rw [eq]; exact lists
  have latched : (fired g d { cutJob s g d m with state := .running } i u).groups[g] =
      { u.groups[g] with latched := some (latchFor u g m.profile) } :=
    (vmod_getElem_self u.groups g fun (x : GroupState) => { x with latched := some (latchFor u g m.profile) })
  have counters : (fired g d { cutJob s g d m with state := .running } i u).groups[g].counters = s.groups[g].counters := by
    rw [latched, eq]; exact h.counters
  have slot : (fired g d { cutJob s g d m with state := .running } i u).slots[i].state = .firing d (m.firePos % m.depth) m.firePos :=
    congrArg Slot.state (vmod_getElem_self u.slots i fun (x : Slot) => { x with state := .firing d (m.firePos % m.depth) m.firePos })
  rw [fires]
  by_cases last : LastLine m
  · by_cases none : ∀ lane, formed s g d i m.profile lane = .none
    · have ends := fireLine_ends (g := g) (i := i) job last fun lane => (same lane).trans (none lane)
      obtain ⟨gone, ring, -, left, groups, unchanged, -⟩ := endJob_spec .ended
        (fired_job (g := g) (c := d) (j := { cutJob s g d m with state := .running }) (i := i) (s := u))
      rw [ends]
      refine ⟨⟨_, gone, ⟨rfl, rfl, rfl, rfl, rfl, rfl, rfl⟩, rfl, rfl, absurd last, fun _ ⟨lane, pulse⟩ => absurd (none lane) pulse, fun _ _ => rfl⟩,
        ?_, fun on => on.elim (absurd last) fun ⟨lane, pulse⟩ => absurd (none lane) pulse, fun _ _ => ⟨ring, ?_, fun lane => ?_⟩⟩
      · have e := congrArg GroupState.counters (groups g)
        exact e.trans counters
      · refine (left g).trans ((if_pos h.group.symm).trans ?_)
        rw [← lists]
        rfl
      · simp only [unchanged]
        refine (pulses lane).trans ?_
        rw [none lane]
        rfl
    · obtain ⟨lane, pulse⟩ := not_forall.mp none
      rw [fireLine_finishes (g := g) (i := i) job last ⟨lane, by rw [same]; exact pulse⟩]
      exact ⟨⟨_, jobs_set_self .., ⟨rfl, rfl, rfl, rfl, rfl, rfl, rfl⟩, rfl, rfl, absurd last, fun _ _ => rfl, fun _ no => absurd no none⟩,
        counters, fun _ => ⟨slot, lists, pulses⟩, fun _ no => absurd no none⟩
  · rw [fireLine_continues (g := g) (i := i) job last]
    exact ⟨⟨_, fired_job, ⟨rfl, rfl, rfl, rfl, rfl, rfl, rfl⟩, rfl, rfl, fun _ => rfl, fun yes => absurd yes last, fun yes => absurd yes last⟩,
      counters, fun _ => ⟨slot, lists, pulses⟩, fun yes => absurd yes last⟩

end

/-! ## A job that hands over (R13, R14) -/

/-- The part once the FINISHING job at the front has ended. -/
def handed (g : GroupId) (c : CtxId) (s : State) : State := endJob c .ended (opened g c s)

section
variable {s : State} {g : GroupId} {c : CtxId} {rest : List CtxId} {j : Job} (front : AtFront s g c rest j) (finishing : j.state = .finishing)
include front finishing

theorem opened_finishing : (opened g c s).jobs[c] = some (cutJob s g c j) :=
  (opened_some front.2.2.1).trans (congrArg some (clippedJob_live (by rw [finishing]; nofun)))

theorem deliver_finishing : deliver g s = concluded g (listHas s g isRunning) (handed g c s) := by
  rw [deliver_eq, actOnFront_finishing (front_of_atFront front) finishing]
  rfl

theorem handed_list : (handed g c s).lists[g] = rest := by
  have lists := (endJob_spec .ended (opened_finishing front finishing)).2.2.2.1 g
  obtain ⟨list, apart, -, group⟩ := front
  refine lists.trans ((if_pos group.symm).trans ?_)
  show s.lists[g].filter (fun d => decide (d ≠ c)) = rest
  rw [list, List.filter_cons_of_neg (by simp)]
  exact List.filter_eq_self.mpr fun d listed => decide_eq_true fun same => apart (same ▸ listed)

theorem handed_pulse (lane : LaneId) : (handed g c s).pulses[lane] = cutPulse s g lane := by
  have pulses : (handed g c s).pulses = (opened g c s).pulses := endJob_pulses (opened_finishing front finishing)
  simp only [pulses]
  exact opened_pulse lane

theorem handed_group : { (handed g c s).groups[g] with waiters := s.groups[g].waiters } = s.groups[g] :=
  (endJob_spec .ended (opened_finishing front finishing)).2.2.2.2.1 g

theorem handed_counters : (handed g c s).groups[g].counters = s.groups[g].counters := by
  have e := congrArg GroupState.counters (handed_group front finishing)
  exact e

theorem handed_hold : (handed g c s).groups[g].hold = s.groups[g].hold := by
  have e := congrArg GroupState.hold (handed_group front finishing)
  exact e

/-- A job that neither waits for slots nor is PENDING is kept as the other ends. -/
theorem handed_kept {d : CtxId} {m : Job} (other : d ≠ c) (job : s.jobs[d] = some m) (wait : d ∉ s.slotWait) (state : m.state ≠ .pending) :
    Kept d (opened g c s) (handed g c s) := by
  refine endJob_kept_of .ended (opened_finishing front finishing) other wait fun k now => ?_
  cases (opened_some job).symm.trans now
  rw [clippedJob_state]
  exact state

/-- Nobody behind the job that ends is RUNNING or FINISHING, if none was. -/
theorem handed_quiet {e : CtxId} (other : e ≠ c) (h : ∀ x, s.jobs[e] = some x → ¬ FirstClass x) :
    ∀ x, (handed g c s).jobs[e] = some x → ¬ FirstClass x := by
  refine endJob_not_first .ended (opened_finishing front finishing) other fun x now => ?_
  cases here : s.jobs[e] with
  | none =>
    have gone : (opened g c s).jobs[e] = none := cutCounted_job.trans (by rw [here]; rfl)
    rw [gone] at now
    cases now
  | some y =>
    cases (opened_some here).symm.trans now
    have not := h y here
    unfold FirstClass at not ⊢
    rw [clippedJob_state]
    exact not

/-- The next job, ARMED and not held back, may start in the same event. -/
theorem handed_startable {d : CtxId} {more : List CtxId} {m : Job} {i : SlotId} {n : Nat} (list : rest = d :: more) (job : s.jobs[d] = some m)
    (group : m.group = g) (armed : m.state = .armed) (wait : d ∉ s.slotWait) (at_ : slotAt s d (m.firePos % m.depth) = some i)
    (ready : s.slots[i].state = .ready d (m.firePos % m.depth) n) : Startable s (handed g c s) g d m i := by
  have other : d ≠ c := fun same => front.2.1 (by rw [list, ← same]; exact List.mem_cons_self)
  have kept := handed_kept front finishing other job wait (by rw [armed]; nofun)
  have found : slotAt (opened g c s) d (m.firePos % m.depth) = some i := (slotAt_opened d _).trans at_
  have slot : (handed g c s).slots[i] = (opened g c s).slots[i] := kept.slots i (.inl ⟨_, slotAt_some found⟩)
  have levels : (handed g c s).slots[i].levels = s.slots[i].levels := by rw [slot, opened_slot]
  have frame := endJob_frame c .ended (opened g c s)
  have configs := congrArg State.configs frame
  have lanes := congrArg State.lanes frame
  have profiles := congrArg State.profiles frame
  have clock := congrArg State.clock frame
  have latched := congrArg GroupState.latched (handed_group front finishing)
  refine ⟨?_, group, (kept.slotAt_eq _).trans found, ⟨n, ?_⟩, handed_pulse front finishing, handed_counters front finishing, fun lane =>
    formed_congr _ lane levels latched configs lanes profiles clock⟩
  · rw [kept.job, opened_some job, clippedJob_live (by rw [armed]; nofun)]
  · rw [slot, opened_slot, ready]
    rfl

/-- The next job, where it may not start, is as it was but for the grant rule. -/
theorem handed_waits {d : CtxId} {m : Job} (other : d ≠ c) (job : s.jobs[d] = some m)
    (state : m.state = .primed ∧ d ∉ s.slotWait ∨ m.state = .waiting ∧ NoRing s d ∨
      m.state = .armed ∧ d ∉ s.slotWait ∧ s.groups[g].hold ≠ .none) :
    ∃ k, (handed g c s).jobs[d] = some k ∧ SameJob m k ∧ ¬ FirstClass k ∧ k.firePos = m.firePos ∧ k.linesFired = m.linesFired ∧
      (k.state ≠ .armed ∨ s.groups[g].hold ≠ .none) := by
  have same (live : ∀ st, m.state ≠ .ended st) (wait : d ∉ s.slotWait) (ready : m.state ≠ .pending) :
      (handed g c s).jobs[d] = some (cutJob s g d m) :=
    (handed_kept front finishing other job wait ready).job.trans ((opened_some job).trans (congrArg some (clippedJob_live live)))
  rcases state with ⟨primed, wait⟩ | ⟨waiting, ring⟩ | ⟨armed, wait, held⟩
  · refine ⟨_, same (by rw [primed]; nofun) wait (by rw [primed]; nofun), ⟨rfl, rfl, rfl, rfl, rfl, rfl, rfl⟩,
      not_firstClass (m := cutJob s g d m) ?_ ?_, rfl, rfl, .inl ?_⟩ <;> exact ne_of_eq_of_ne primed nofun
  · have here := (opened_some (g := g) (c := c) job).trans (congrArg some (clippedJob_live (s := s) (g := g) (c := d) (by rw [waiting]; nofun)))
    have none : NoRing (opened g c s) d := fun i k place => by
      rw [opened_slot] at place
      exact ring i k ((ringPlace_unfired _).symm.trans place)
    obtain ⟨x, now⟩ := (endJob_spec .ended (opened_finishing front finishing)).2.2.2.2.2.2.1 d _ other here
    obtain ⟨not_first, not_armed⟩ := (endJob_unready .ended (opened_finishing front finishing) other here waiting none).job _ now
    exact ⟨_, now, ⟨rfl, rfl, rfl, rfl, rfl, rfl, rfl⟩, not_first, rfl, rfl, .inl not_armed⟩
  · refine ⟨_, same (by rw [armed]; nofun) wait (by rw [armed]; nofun), ⟨rfl, rfl, rfl, rfl, rfl, rfl, rfl⟩,
      not_firstClass (m := cutJob s g d m) ?_ ?_, rfl, rfl, .inr held⟩ <;> exact ne_of_eq_of_ne armed nofun

/-- With no job to start, and none RUNNING when it came, the event is idle. -/
theorem deliver_handed_idle (others : ∀ e ∈ rest, ∀ x, s.jobs[e] = some x → ¬ FirstClass x) (stays : mayStart g (handed g c s) = none) :
    deliver g s = countIdle g (handed g c s) := by
  have none_running : listHas s g isRunning = false := listHas_running_false fun e listed x here running => by
    rw [front.1] at listed
    rcases List.mem_cons.mp listed with rfl | behind
    · cases front.2.2.1.symm.trans here
      rw [running] at finishing
      cases finishing
    · exact others e behind x here (.inl running)
  rw [deliver_finishing front finishing, none_running, concluded_idle stays]

theorem countIdle_handed_counters : (countIdle g (handed g c s)).groups[g].counters =
    { s.groups[g].counters with idleEvents := counted s.groups[g].counters.idleEvents } := by
  rw [countIdle_eq, withGroup_get_self, handed_counters front finishing]

end

/-! ## O26 -/

section
variable {s : State} {g : GroupId} {c : CtxId} {rest : List CtxId} {j : Job} (front : AtFront s g c rest j)
include front

/-- The job next behind starts. -/
theorem deliver_hands_over (finishing : j.state = .finishing) {d : CtxId} {more : List CtxId} {m : Job} {i : SlotId} {n : Nat}
    (list : rest = d :: more) (job : s.jobs[d] = some m) (group : m.group = g) (armed : m.state = .armed) (wait : d ∉ s.slotWait)
    (free : s.groups[g].hold = .none) (others : ∀ e ∈ more, ∀ x, s.jobs[e] = some x → ¬ FirstClass x)
    (at_ : slotAt s d (m.firePos % m.depth) = some i) (ready : s.slots[i].state = .ready d (m.firePos % m.depth) n) :
    Started s (deliver g s) g d m i rest := by
  have start := handed_startable front finishing list job group armed wait at_ ready
  have lists := handed_list front finishing
  have may : mayStart g (handed g c s) = some (d, cutJob s g d m) := by
    refine mayStart_front ⟨by rw [lists, list]; rfl, start.job⟩ armed ((handed_hold front finishing).trans free) fun e listed x now => ?_
    rw [lists, list] at listed
    have behind : e ≠ c := fun same => front.2.1 (by rw [list, ← same]; exact listed)
    refine handed_quiet front finishing behind (fun y here => ?_) x now
    rcases List.mem_cons.mp listed with rfl | behind
    · cases job.symm.trans here
      exact not_firstClass (by rw [armed]; nofun) (by rw [armed]; nofun)
    · exact others e behind y here
  rw [deliver_finishing front finishing, concluded_start _ may]
  exact startFiring_started start lists

/-- The job at the front starts. -/
theorem deliver_starts (armed : j.state = .armed) (free : s.groups[g].hold = .none)
    (others : ∀ e ∈ rest, ∀ x, s.jobs[e] = some x → ¬ FirstClass x) {i : SlotId} {n : Nat}
    (at_ : slotAt s c (j.firePos % j.depth) = some i) (ready : s.slots[i].state = .ready c (j.firePos % j.depth) n) :
    Started s (deliver g s) g c j i (c :: rest) := by
  have at_front := front_of_atFront front
  obtain ⟨list, -, job, group⟩ := front
  have not_first : ¬ FirstClass j := not_firstClass (by rw [armed]; nofun) (by rw [armed]; nofun)
  have now : (cutCounted g s).jobs[c] = some (cutJob s g c j) :=
    (cutCounted_some job).trans (congrArg some (clippedJob_live (by rw [armed]; nofun)))
  have may : mayStart g (cutCounted g s) = some (c, cutJob s g c j) := by
    refine mayStart_front ⟨at_front.1, now⟩ armed free fun e listed x here => ?_
    obtain ⟨y, before, rfl⟩ := Option.map_eq_some_iff.mp (cutCounted_job.symm.trans here)
    have quiet : ¬ FirstClass y := by
      rcases List.mem_cons.mp (list ▸ listed) with rfl | behind
      · cases job.symm.trans before
        exact not_first
      · exact others e behind y before
    unfold FirstClass at quiet ⊢
    rw [clippedJob_state]
    exact quiet
  have start : Startable s (cutCounted g s) g c j i :=
    ⟨now, group, at_, ⟨n, ready⟩, cutCounted_pulse, rfl, fun lane => formed_congr _ lane rfl rfl rfl rfl rfl rfl⟩
  rw [deliver_eq, actOnFront_other at_front not_first, concluded_start _ may]
  exact startFiring_started start list

end

/-- Settles O26. -/
theorem handoverAtLineEvent : Obligations.HandoverAtLineEvent := by
  intro s g c rest j front
  refine ⟨fun finishing => ?_, fun i n armed free others at_ ready => deliver_starts front armed free others at_ ready, deliver_frame g s⟩
  obtain ⟨gone, ring⟩ := concluded_endJob (g := g) .ended (listHas s g isRunning) (opened_finishing front finishing) front.2.2.2
  rw [show endJob c .ended (opened g c s) = handed g c s from rfl, ← deliver_finishing front finishing] at gone ring
  refine ⟨⟨_, gone, ⟨rfl, rfl, rfl, rfl, rfl, rfl, rfl⟩, rfl, rfl, rfl, rfl, rfl, rfl⟩, ring, fun alone => ?_,
    fun d more m i n list _ job group armed wait free others at_ ready =>
      deliver_hands_over front finishing list job group armed wait free others at_ ready,
    fun d more m list _ job state others => ?_⟩
  · have empty : (handed g c s).lists[g] = [] := (handed_list front finishing).trans alone
    rw [deliver_handed_idle front finishing (by rw [alone]; nofun) (mayStart_nil empty)]
    refine ⟨empty, ?_, handed_pulse front finishing⟩
    rw [countIdle_handed_counters front finishing]
  · have other : d ≠ c := fun same => front.2.1 (by rw [list, ← same]; exact List.mem_cons_self)
    obtain ⟨k, now, same, not_first, firePos, linesFired, stays⟩ := handed_waits front finishing other job state
    have lists := handed_list front finishing
    have first : Front (handed g c s) g d k := ⟨by rw [lists, list]; rfl, now⟩
    have quiet : ∀ e ∈ rest, ∀ x, s.jobs[e] = some x → ¬ FirstClass x := by
      rw [list]
      refine List.forall_mem_cons.mpr ⟨fun x here => ?_, others⟩
      cases job.symm.trans here
      refine not_firstClass ?_ ?_ <;> rcases state with ⟨e, -⟩ | ⟨e, -⟩ | ⟨e, -⟩ <;> rw [e] <;> nofun
    rw [deliver_handed_idle front finishing quiet (mayStart_none first (by rw [handed_hold front finishing]; exact stays))]
    exact ⟨⟨k, now, same, not_first, firePos, linesFired⟩, lists, countIdle_handed_counters front finishing, handed_pulse front finishing⟩

end Sys2Proof.Machine
end
